-- ==== Sys2Proof/Word.lean ====
section
/-! DEFINITION. The bit widths of the machine (00_scope.md R8, R9): every value is an unsigned
number of a stated width. -/

namespace Sys2Proof

/-- An instruction word, the program counter, the index register or a stack entry: 16 bits (R9). -/
abbrev Word := BitVec 16

/-- A memory byte, a general register or a timer: 8 bits (R9). -/
abbrev Byte := BitVec 8

/-- A 4-bit field: a general register index, a sprite height or a key code (R42, R126). -/
abbrev Nibble := BitVec 4

/-- The 12-bit address field `nnn` (R42). -/
abbrev Addr := BitVec 12

/-- A framebuffer row: 64 bits, bit 63 the leftmost pixel (R8, R22). -/
abbrev PixelRow := BitVec 64

end Sys2Proof
end

