-- ==== Sys2Proof/Syntax.lean ====
section
/-! DEFINITION. The instruction set: one constructor per row of spec/opcode_table.json
(30_encoding.md R45). An operand has exactly the width of its field (R42), so no operand out of
range can be written down. -/

namespace Sys2Proof

/-- The 33 instructions of 30_encoding.md R45, in the table's order. -/
inductive Instr where
  /-- `00E0` clear the framebuffer (R66). -/
  | cls
  /-- `00EE` return from subroutine (R69). -/
  | ret
  /-- `1nnn` jump (R70). -/
  | jp (nnn : Addr)
  /-- `2nnn` call subroutine (R71). -/
  | call (nnn : Addr)
  /-- `3xnn` skip if equal to immediate (R75). -/
  | seImm (x : Nibble) (nn : Byte)
  /-- `4xnn` skip if not equal to immediate (R76). -/
  | sneImm (x : Nibble) (nn : Byte)
  /-- `5xy0` skip if registers equal (R77). -/
  | seReg (x y : Nibble)
  /-- `6xnn` load immediate (R82). -/
  | ldImm (x : Nibble) (nn : Byte)
  /-- `7xnn` add immediate without carry (R83). -/
  | addImm (x : Nibble) (nn : Byte)
  /-- `8xy0` copy register (R84). -/
  | ldReg (x y : Nibble)
  /-- `8xy1` bitwise OR (R85). -/
  | orReg (x y : Nibble)
  /-- `8xy2` bitwise AND (R86). -/
  | andReg (x y : Nibble)
  /-- `8xy3` bitwise exclusive OR (R87). -/
  | xorReg (x y : Nibble)
  /-- `8xy4` add with carry out (R88). -/
  | addReg (x y : Nibble)
  /-- `8xy5` subtract with no-borrow flag (R89). -/
  | subReg (x y : Nibble)
  /-- `8xy6` shift `V[y]` right by one into `V[x]` (R90). -/
  | shr (x y : Nibble)
  /-- `8xyE` shift `V[y]` left by one into `V[x]` (R91). -/
  | shl (x y : Nibble)
  /-- `9xy0` skip if registers differ (R78). -/
  | sneReg (x y : Nibble)
  /-- `Annn` load the index register (R93). -/
  | ldI (nnn : Addr)
  /-- `Bnnn` jump with offset `V0` (R72). -/
  | jpV0 (nnn : Addr)
  /-- `Cxnn` random byte masked by an immediate (R92). -/
  | rnd (x : Nibble) (nn : Byte)
  /-- `Dxyn` draw an n-byte sprite (R67). -/
  | drw (x y n : Nibble)
  /-- `Ex9E` skip if the key `V[x]` is pressed (R79). -/
  | skp (x : Nibble)
  /-- `ExA1` skip if the key `V[x]` is not pressed (R80). -/
  | sknp (x : Nibble)
  /-- `Fx07` read the delay timer (R99). -/
  | ldVxDt (x : Nibble)
  /-- `Fx0A` wait for a key and store its code (R102). -/
  | ldVxK (x : Nibble)
  /-- `Fx15` set the delay timer (R100). -/
  | ldDtVx (x : Nibble)
  /-- `Fx18` set the sound timer (R101). -/
  | ldStVx (x : Nibble)
  /-- `Fx1E` add a register to the index register (R94). -/
  | addI (x : Nibble)
  /-- `Fx29` point the index register at the glyph of hex digit `V[x]` (R95). -/
  | ldF (x : Nibble)
  /-- `Fx33` store the three decimal digits of `V[x]` (R96). -/
  | ldB (x : Nibble)
  /-- `Fx55` store `V0` to `V[x]` to memory (R97). -/
  | ldMemVx (x : Nibble)
  /-- `Fx65` load `V0` to `V[x]` from memory (R98). -/
  | ldVxMem (x : Nibble)
  deriving DecidableEq, Repr

end Sys2Proof
end

