-- ==== Sys2Proof/WellFormed.lean ====
section
/-! DEFINITION. Which words are instructions, family by family, as 30_encoding.md R46 to R51 list
the illegal ones. It is written apart from the decoder and from the encoder, and the two are stated
to agree with it. An instruction of `Instr` needs no check of its own: its operands have the widths
of their fields. -/

namespace Sys2Proof

/-- The function nibbles of family 8 (R49). -/
def family8Functions : List Nibble :=
  [0x0#4, 0x1#4, 0x2#4, 0x3#4, 0x4#4, 0x5#4, 0x6#4, 0xE#4]

/-- The function bytes of family E (R50). -/
def familyEFunctions : List Byte := [0x9E#8, 0xA1#8]

/-- The function bytes of family F (R51). -/
def familyFFunctions : List Byte :=
  [0x07#8, 0x0A#8, 0x15#8, 0x18#8, 0x1E#8, 0x29#8, 0x33#8, 0x55#8, 0x65#8]

/-- `w` is one of the words that are instructions: families 1, 2, 3, 4, 6, 7, A, B, C and D hold no
illegal word (R46), and families 0, 5, 8, 9, E and F only the words R47 to R51 leave legal. -/
def wellFormedWord (w : Word) : Bool :=
  let n : Nibble := w.extractLsb' 0 4
  let nn : Byte := w.extractLsb' 0 8
  match (w.extractLsb' 12 4).toNat with
  | 0x0 => w == 0x00E0#16 || w == 0x00EE#16
  | 0x5 => n == 0x0#4
  | 0x8 => family8Functions.contains n
  | 0x9 => n == 0x0#4
  | 0xE => familyEFunctions.contains nn
  | 0xF => familyFFunctions.contains nn
  | _ => true

end Sys2Proof
end

