-- ==== Sys2Proof/Config.lean ====
section
/-! DEFINITION. The implementation parameters of 00_scope.md R7: the sizes this hardware fixes, the
parameters of the scheduler as named arguments of the model, and the values the spec leaves free,
which have no body. -/

namespace Sys2Proof

/-- The order of a dispatch and a timer tick that fire in one scheduler step (R120). -/
inductive SameStepOrder where
  | dispatchFirst
  | tickFirst
  deriving DecidableEq, Repr, Inhabited

/-- The open parameters of the scheduler (R7). An accumulator is a natural number, so it exceeds an
interval exactly when it exceeds the interval's whole part; only that part is kept. -/
structure Params where
  /-- The whole part of `DECODE_INTERVAL` in tick units. -/
  decodeInterval : Nat
  /-- The whole part of `TIMER_INTERVAL` in tick units. -/
  timerInterval : Nat
  /-- `SAME_STEP_ORDER`. -/
  sameStepOrder : SameStepOrder
  deriving DecidableEq, Repr

/-- `MEM_SIZE`: bytes in the memory bank (R7, R28). -/
@[simp] abbrev Config.memSize : Nat := 4096

/-- `FONT_BASE`: the address of glyph 0 (R7, R33). -/
@[simp] abbrev Config.fontBase : Nat := 0x000

/-- `PROGRAM_BASE`: the load address and the initial pc (R7, R26). -/
@[simp] abbrev Config.programBase : Nat := 0x200

/-- `MAX_PROGRAM`: the largest program in bytes, 4096 - 0x200 (R7, R132). -/
@[simp] abbrev Config.maxProgram : Nat := 3584

/-- `STACK_DEPTH`: the capacity of the call stack (R7, R21). -/
@[simp] abbrev Config.stackDepth : Nat := 16

/-- FREE: which of the two orders of R120 this hardware has; nothing is known of it. DEDUCED, safe
(log entry 5). -/
opaque Config.sameStepOrder : SameStepOrder

/-- FREE: the answer to the `k`-th random draw (R92) where the host has lined none up. DESIGN CHOICE, safe
(log entry 6). -/
opaque Config.randomByte : Nat → Byte

/-- FREE: the answer to the `k`-th key query (R126) where the host has lined none up. DESIGN CHOICE, safe
(log entry 7). -/
opaque Config.keyAnswer : Nat → Option Nibble

end Sys2Proof
end

