-- ==== Sys2Proof/Machine/Font.lean ====
section
/-! DEFINITION. The parameter `FONT` (00_scope.md R7, 20_memory.md R34): the 80 bytes that `initialize()`
installs. It is open: `State.initialize` takes any, and a memory bank remembers the one it was given. -/

namespace Sys2Proof.Machine

/-- A value of `FONT`: five bytes for each of the 16 hex digits, one byte a row, the top row first, bit 7
the leftmost pixel (R34). -/
abbrev Font := Vector Byte 80

/-- The spec's default for `FONT`, the table of R34. PRESUMED, unsafe for a claim about a glyph's shape (log
entry 3). -/
def defaultFont : Font :=
  (#v[0xF0#8, 0x90#8, 0x90#8, 0x90#8, 0xF0#8,  0x20#8, 0x60#8, 0x20#8, 0x20#8, 0x70#8,
      0xF0#8, 0x10#8, 0xF0#8, 0x80#8, 0xF0#8,  0xF0#8, 0x10#8, 0xF0#8, 0x10#8, 0xF0#8] : Vector Byte 20) ++
  (#v[0x90#8, 0x90#8, 0xF0#8, 0x10#8, 0x10#8,  0xF0#8, 0x80#8, 0xF0#8, 0x10#8, 0xF0#8,
      0xF0#8, 0x80#8, 0xF0#8, 0x90#8, 0xF0#8,  0xF0#8, 0x10#8, 0x20#8, 0x40#8, 0x40#8] : Vector Byte 20) ++
  (#v[0xF0#8, 0x90#8, 0xF0#8, 0x90#8, 0xF0#8,  0xF0#8, 0x90#8, 0xF0#8, 0x10#8, 0xF0#8,
      0xF0#8, 0x90#8, 0xF0#8, 0x90#8, 0x90#8,  0xE0#8, 0x90#8, 0xE0#8, 0x90#8, 0xE0#8] : Vector Byte 20) ++
  (#v[0xF0#8, 0x80#8, 0x80#8, 0x80#8, 0xF0#8,  0xE0#8, 0x90#8, 0x90#8, 0x90#8, 0xE0#8,
      0xF0#8, 0x80#8, 0xF0#8, 0x80#8, 0xF0#8,  0xF0#8, 0x80#8, 0xF0#8, 0x80#8, 0x80#8] : Vector Byte 20)

/-- What `initialize()` leaves at an address: `FONT` from `FONT_BASE` = 0x000 on, then zeros (10_state.md
R26, 70_reset_and_hazards.md R131). -/
def resetByte (font : Font) (a : Nat) : Byte := font[a]?.getD 0x00#8

end Sys2Proof.Machine
end

