-- ==== Sys2Proof/Machine/State.lean ====
section
/-! DEFINITION. The state of the core (10_state.md R13), the reasons a step can stop, and the state
after reset. Every field is plain data. -/

namespace Sys2Proof.Machine

/-- The reasons of the spec's own faults (60_exceptions.md R104, 93_implementation_defined.md U1, U2). -/
inductive Reason where
  /-- An access above 0xFFF (20_memory.md R31): code 16. -/
  | addressOutOfRange
  /-- `Fx29` with `V[x]` above 15 (45_index_memory.md R95): code 17. -/
  | glyphDigitOutOfRange
  deriving DecidableEq, Repr

/-- The outcomes that halt the core (60_exceptions.md R104). -/
inductive Error where
  | decodeError
  | stackOverflow
  | stackUnderflow
  | unspecified (reason : Reason)
  deriving DecidableEq, Repr

/-- What a halt records (60_exceptions.md R105): the error, the instruction word where one was
fetched, and the address it was fetched from. -/
structure HaltRecord where
  error : Error
  word : Option Word
  addr : Word
  deriving DecidableEq, Repr

/-- The dispatcher's run state (10_state.md R24). -/
inductive Run where
  | running
  /-- An `Fx0A` with destination `x` is held; `tickPending` says that the scheduler step that started
  it still owes a timer tick (60_exceptions.md R121). -/
  | waitKey (x : Nibble) (tickPending : Bool)
  | halted (record : HaltRecord)
  deriving DecidableEq, Repr

/-- The 32 rows of the framebuffer, top to bottom (10_state.md R22). -/
abbrev Frame := Vector PixelRow 32

/-- The memory bank (20_memory.md R28): the `FONT` it was initialized with, and the bytes that differ now
from what `initialize()` left, by rising address (`Memory.wf`). -/
structure Memory where
  /-- The model's own: the parameter `FONT` (R7). Nothing writes it after `initialize()`. -/
  font : Font
  cells : List Host.Cell
  deriving DecidableEq, Repr

/-- One interaction of the core with the host (40_dispatch.md R61, 60_exceptions.md R124 to R126). -/
inductive HostEvent where
  /-- The display sink receives a copy of all rows (R65, R124). -/
  | redraw (frame : Frame)
  /-- The audio sink receives the audio level (R113, R125). -/
  | audio (on : Bool)
  /-- The key-state source was asked and gave this answer (R126). -/
  | keyQuery (answer : Option Nibble)
  /-- The random source gave this byte (R92). -/
  | randomDraw (b : Byte)
  deriving DecidableEq, Repr

/-- The state of 10_state.md R13, and after it the model's own record of the host's side.
DESIGN CHOICE, safe (log entries 6, 7 and 10). -/
@[ext]
structure State where
  /-- `V[0]` to `V[15]` (R14); `VF` is `V[15]` (R15). -/
  v : Vector Byte 16
  /-- `I` (R18). -/
  index : Word
  /-- `pc` (R17). -/
  pc : Word
  /-- The call stack, the most recently pushed address first (R21). -/
  stack : List Word
  /-- The memory bank (20_memory.md R28). -/
  mem : Memory
  /-- `FB[0]` to `FB[31]` (R22). -/
  fb : Frame
  /-- `DT` (R20). -/
  dt : Byte
  /-- `ST` (R20). -/
  st : Byte
  /-- `audio_on` (R23). -/
  audioOn : Bool
  /-- `run` (R24). -/
  run : Run
  /-- `acc_d`, in tick units (R25). -/
  accD : Nat
  /-- `acc_t`, in tick units (R25). -/
  accT : Nat
  /-- The model's own: key answers the host has lined up, the next one first (R126). -/
  keyInputs : List (Option Nibble)
  /-- The model's own: how many key queries have been made; indexes the free answers. -/
  keyQueries : Nat
  /-- The model's own: random bytes the host has lined up, the next one first (R92). -/
  randomInputs : List Byte
  /-- The model's own: how many random draws have been made; indexes the free bytes. -/
  randomDraws : Nat
  /-- The model's own: every interaction with the host so far, the latest first (R61). -/
  hostLog : List HostEvent
  deriving DecidableEq, Repr

/-- Why a step of the host's interface would stop with a fault. It has no constructor: every error of
this core is a state (`Run.halted`, R105), which a step answers as a next state. DEDUCED, safe (log
entry 1). -/
inductive Fault where
  deriving DecidableEq, Repr

/-- Why a step would be refused. -/
inductive Refusal where
  /-- An instruction whose arm in exec has no meaning yet. Raised by such an arm only, and no arm of
  this model is one. Safe: the step stops where the hardware goes on. -/
  | notModelled (mnemonic : String)
  deriving DecidableEq, Repr

/-- The state after `initialize()` with nothing loaded, for any `FONT` (10_state.md R26, 70_reset_and_hazards.md
R131): memory as reset leaves it, pc at 0x200, everything else 0, empty or `Running` (the spec's
choices D5 and D19), and nothing yet said to or by the host. DESIGN CHOICE, unsafe (log entry 2). -/
def State.initialize (font : Font) : State where
  v := Vector.replicate 16 0x00#8
  index := 0x0000#16
  pc := 0x0200#16
  stack := []
  mem := ⟨font, []⟩
  fb := Vector.replicate 32 0x0#64
  dt := 0x00#8
  st := 0x00#8
  audioOn := false
  run := .running
  accD := 0
  accT := 0
  keyInputs := []
  keyQueries := 0
  randomInputs := []
  randomDraws := 0
  hostLog := []

/-- The state after reset with the spec's default `FONT` (20_memory.md R34; log entry 3). -/
def State.reset : State := State.initialize defaultFont

end Sys2Proof.Machine
end

