-- ==== Sys2Proof/Machine/Ops.lean ====
section
/-! DEFINITION. The named operations over memory, registers, stack, framebuffer, timers and host
(00_scope.md R10), fetching an instruction word, and halting with an error, the core's only
exception (60_exceptions.md R104 to R108). -/

namespace Sys2Proof.Machine

/-! ## Memory -/

/-- The byte at an address: the one listed, or what `initialize()` left. That one past the bank gives 0x00
is DEDUCED and safe: no step reads there (R31; log entry 13). -/
def Memory.read (m : Memory) (a : Nat) : Byte := (m.cells.lookup a).getD (resetByte m.font a)

/-- `m` without any entry for `a`. -/
def Memory.erase (m : Memory) (a : Nat) : Memory :=
  { m with cells := m.cells.filter (fun c => c.1 != a) }

/-- `l` with `(a, b)` before the first entry of a larger address. -/
def insertCell (a : Nat) (b : Byte) : List Host.Cell → List Host.Cell
  | [] => [(a, b)]
  | c :: rest => if a < c.1 then (a, b) :: c :: rest else c :: insertCell a b rest

/-- `m` with an entry for `a`. -/
def Memory.insert (m : Memory) (a : Nat) (b : Byte) : Memory :=
  { m with cells := insertCell a b m.cells }

/-- Writes one byte. A byte equal to what `initialize()` left is not listed. -/
def Memory.write (m : Memory) (a : Nat) (b : Byte) : Memory :=
  if b = resetByte m.font a then m.erase a else (m.erase a).insert a b

/-- The canonical form: addresses strictly rising and within the bank, no entry equal to what an
unlisted address reads as. -/
abbrev Memory.wf (m : Memory) : Prop :=
  m.cells.Pairwise (fun c d => c.1 < d.1) ∧
    ∀ c ∈ m.cells, c.1 < Config.memSize ∧ c.2 ≠ resetByte m.font c.1

/-- The bytes at `a`, `a+1`, ..., `a+n-1`, in this order (R10, R27). -/
def Memory.readBytes (m : Memory) (a n : Nat) : List Byte :=
  (List.range n).map (fun k => m.read (a + k))

/-- Writes bytes at `a`, `a+1`, ... in this order (R10, R36). -/
def Memory.writeBytes (m : Memory) (a : Nat) : List Byte → Memory
  | [] => m
  | b :: rest => (m.write a b).writeBytes (a + 1) rest

/-- All of `a`, ..., `a+n-1` are addresses of the bank (20_memory.md R31); true of no access at all. -/
def inRange (a n : Nat) : Bool := n == 0 || decide (a + n ≤ Config.memSize)

/-! ## Registers, stack and framebuffer -/

/-- `V[i]` (R10, R14). -/
def State.reg (s : State) (i : Nibble) : Byte := s.v[i.toNat]'i.isLt

/-- `V[i] <- b` (R10, R14). -/
def State.setReg (s : State) (i : Nibble) (b : Byte) : State := { s with v := s.v.set i.toNat b i.isLt }

/-- `I <- w` (R18). -/
def State.setIndex (s : State) (w : Word) : State := { s with index := w }

/-- `pc <- w` (R17). -/
def State.setPc (s : State) (w : Word) : State := { s with pc := w }

/-- Replaces the call stack (R21). -/
def State.setStack (s : State) (l : List Word) : State := { s with stack := l }

/-- Replaces the memory bank's contents (R28). -/
def State.setMem (s : State) (m : Memory) : State := { s with mem := m }

/-- Replaces the framebuffer's rows (R22). -/
def State.setFb (s : State) (f : Frame) : State := { s with fb := f }

/-- `DT <- b` (R20). -/
def State.setDt (s : State) (b : Byte) : State := { s with dt := b }

/-- `ST <- b` (R20). -/
def State.setSt (s : State) (b : Byte) : State := { s with st := b }

/-- Drives the audio-enable level (R23). -/
def State.setAudio (s : State) (on : Bool) : State := { s with audioOn := on }

/-- `run <- r` (R24). -/
def State.setRun (s : State) (r : Run) : State := { s with run := r }

/-- Sets the scheduler's accumulators (R25). -/
def State.setAcc (s : State) (d t : Nat) : State := { s with accD := d, accT := t }

/-- `MemWrite` of consecutive bytes (R10). -/
def State.store (s : State) (a : Nat) (bs : List Byte) : State := s.setMem (s.mem.writeBytes a bs)

/-- `V[k] <- b` for consecutive registers from `k` on (45_index_memory.md R98). -/
def State.setRegsFrom (s : State) (k : Nat) : List Byte → State
  | [] => s
  | b :: rest => (s.setReg (BitVec.ofNat 4 k) b).setRegsFrom (k + 1) rest

/-- `FB[r]` for a row number reduced modulo 32 (R22, R64). -/
def Frame.row (f : Frame) (r : Nat) : PixelRow := f[r % 32]'(Nat.mod_lt r (by decide))

/-- `FB[r] <- m` for a row number reduced modulo 32 (R22, R64). -/
def Frame.setRow (f : Frame) (r : Nat) (m : PixelRow) : Frame :=
  f.set (r % 32) m (Nat.mod_lt r (by decide))

/-! ## The host -/

/-- Records an interaction with the host (R61; log entry 10). -/
def State.logEvent (s : State) (e : HostEvent) : State := { s with hostLog := e :: s.hostLog }

/-- `EmitRedraw()`: the display sink receives all rows as they stand (41_display.md R65). -/
def State.emitRedraw (s : State) : State := s.logEvent (.redraw s.fb)

/-- The answer the next `KeyState()` query gets: the host's next one, or a free one (R126; log entry 7). -/
def State.keyAnswer (s : State) : Option Nibble :=
  match s.keyInputs with
  | [] => Config.keyAnswer s.keyQueries
  | k :: _ => k

/-- The state after one `KeyState()` query (R126). -/
def State.askKey (s : State) : State :=
  { s with
    keyInputs := s.keyInputs.tail
    keyQueries := s.keyQueries + 1
    hostLog := .keyQuery s.keyAnswer :: s.hostLog }

/-- The byte the next `RandomByte()` draw gives: the host's next one, or a free one (R92; log entry 6). -/
def State.randomByte (s : State) : Byte :=
  match s.randomInputs with
  | [] => Config.randomByte s.randomDraws
  | b :: _ => b

/-- The state after one `RandomByte()` draw (R92). -/
def State.drawRandom (s : State) : State :=
  { s with
    randomInputs := s.randomInputs.tail
    randomDraws := s.randomDraws + 1
    hostLog := .randomDraw s.randomByte :: s.hostLog }

/-! ## Fetching -/

/-- The word at `pc`, big-endian, or none where its second byte lies beyond the bank (R27, R57). -/
def State.fetchWord (s : State) : Option Word :=
  if s.pc.toNat + 1 < Config.memSize then
    some (wordOfBytes (s.mem.read s.pc.toNat) (s.mem.read (s.pc.toNat + 1)))
  else none

/-- The fetch's advance of `pc` by 2, modulo 2^16 (R53, R56, R17). -/
def State.advancePc (s : State) : State := s.setPc (s.pc + 2#16)

/-! ## Errors -/

/-- The numeric code of an error (60_exceptions.md R104). -/
def Error.code : Error → Nat
  | .decodeError => 1
  | .stackOverflow => 2
  | .stackUnderflow => 3
  | .unspecified .addressOutOfRange => 16
  | .unspecified .glyphDigitOutOfRange => 17

/-- Taking an error, the core's one exception: `run` becomes `Halted` with the error, the word if one
was fetched and the address it was fetched from; nothing else changes (R105, R108). -/
def State.raise (s : State) (e : Error) (word : Option Word) (addr : Word) : State :=
  s.setRun (.halted ⟨e, word, addr⟩)

/-- The address of the executing instruction: `pc` is `a + 2` while it executes (R17). DEDUCED, safe (log
entry 12). -/
def State.instrAddr (s : State) : Word := s.pc - 2#16

/-- `raise e` inside the execute part of instruction `i`: the word is the one `i` was decoded from, the
address the one it was fetched from (R55, R105). DEDUCED, safe (log entry 12). -/
def raiseFrom (e : Error) (i : Instr) (s : State) : Host.Outcome State Fault Refusal :=
  .next (s.raise e (some (encode i)) s.instrAddr)

end Sys2Proof.Machine
end

