-- ==== Sys2Proof/Machine/Flags.lean ====
section
/-! DEFINITION. The flag computations: what `VF` gets as carry, no-borrow, shifted-out bit or collision
(10_state.md R15), and the order of a result and its flag (40_dispatch.md R59). -/

namespace Sys2Proof.Machine

/-- `VF`'s register index (R15). -/
def vf : Nibble := 0xF#4

/-- A flag value is 0x01 or 0x00 (R15). -/
def flagByte (c : Bool) : Byte := if c then 0x01#8 else 0x00#8

/-- The carry of `8xy4`: the exact sum exceeds 255 (44_alu.md R88). -/
def carryFlag (a b : Byte) : Byte := flagByte (decide (a.toNat + b.toNat > 255))

/-- The no-borrow flag of `8xy5`: `a >= b` (44_alu.md R89). -/
def noBorrowFlag (a b : Byte) : Byte := flagByte (decide (b.toNat ≤ a.toNat))

/-- The bit `8xy6` shifts out: bit 0 (44_alu.md R90). -/
def lowBitFlag (a : Byte) : Byte := a &&& 0x01#8

/-- The bit `8xyE` shifts out: bit 7, stored as 0x01 or 0x00 (44_alu.md R91). -/
def highBitFlag (a : Byte) : Byte := flagByte (a &&& 0x80#8 != 0x00#8)

/-- Writes a result to `V[x]` and then a flag to `VF`, so that a destination `VF` ends holding the flag
(R15, R59; the spec's decision D8, unsafe, log entry 16). -/
def State.setRegFlag (s : State) (x : Nibble) (result flag : Byte) : State :=
  (s.setReg x result).setReg vf flag

end Sys2Proof.Machine
end

