-- ==== Sys2Proof/Machine/Operands.lean ====
section
/-! DEFINITION. The operand forms (30_encoding.md R42, R43): immediates and addresses are zero-extended,
registers are read directly, and memory is addressed by `I` only (45_index_memory.md). -/

namespace Sys2Proof.Machine

/-- `zext_16(nnn)` (R43). -/
def addrOperand (nnn : Addr) : Word := nnn.setWidth 16

/-- `zext_16(V[x])`, the offset of `Bnnn` (42_control.md R72). -/
def regOffset (b : Byte) : Word := b.setWidth 16

/-- A key code 0 to 15 as a register value (46_timers_keys.md R102). -/
def keyByte (k : Nibble) : Byte := k.setWidth 8

/-- The source answered `Some(V[x])` (43_skips.md R79): a register above 15 matches no code. -/
def keyMatches (answer : Option Nibble) (b : Byte) : Bool := answer.map keyByte == some b

/-- The sprite of `Dxyn`: the `n` bytes at `I`, copied before anything changes (R40, R67). -/
def spriteBytes (s : State) (n : Nibble) : List Byte := s.mem.readBytes s.index.toNat n.toNat

/-- `V[0]` to `V[x]`, in this order (45_index_memory.md R97). -/
def regsUpTo (s : State) (x : Nibble) : List Byte :=
  (List.range (x.toNat + 1)).map (fun k => s.reg (BitVec.ofNat 4 k))

/-- The hundreds, tens and ones digits of a byte, in this order (45_index_memory.md R96). -/
def decimalDigits (b : Byte) : List Byte :=
  [BitVec.ofNat 8 (b.toNat / 100), BitVec.ofNat 8 (b.toNat / 10 % 10), BitVec.ofNat 8 (b.toNat % 10)]

/-- `glyph_address(d)`: five bytes a glyph from `FONT_BASE` (20_memory.md R34). -/
def glyphAddress (d : Byte) : Word := BitVec.ofNat 16 (Config.fontBase + 5 * d.toNat)

end Sys2Proof.Machine
end

