-- ==== Sys2Proof/Machine/Control.lean ====
section
/-! DEFINITION. The control-transfer family, 00EE, 1nnn, 2nnn and Bnnn (42_control.md). A target is not
checked when it is written (R68). -/

namespace Sys2Proof.Machine

/-- `00EE` RET (R69). -/
def execRet (s : State) : Host.Outcome State Fault Refusal :=
  match s.stack with
  | [] => raiseFrom .stackUnderflow .ret s
  | a :: rest => .next ((s.setStack rest).setPc a)

/-- `1nnn` JP (R70). -/
def execJp (nnn : Addr) (s : State) : Host.Outcome State Fault Refusal :=
  .next (s.setPc (addrOperand nnn))

/-- `2nnn` CALL (R71): pushes `pc`, which is the address after the call. -/
def execCall (nnn : Addr) (s : State) : Host.Outcome State Fault Refusal :=
  if s.stack.length < Config.stackDepth then
    .next ((s.setStack (s.pc :: s.stack)).setPc (addrOperand nnn))
  else raiseFrom .stackOverflow (.call nnn) s

/-- `Bnnn` JP V0 (R72): the sum is not reduced to 12 bits. -/
def execJpV0 (nnn : Addr) (s : State) : Host.Outcome State Fault Refusal :=
  .next (s.setPc (addrOperand nnn + regOffset (s.reg 0x0#4)))

end Sys2Proof.Machine
end

