-- ==== Sys2Proof/Machine/Display.lean ====
section
/-! DEFINITION. The display family, 00E0 and Dxyn (41_display.md). -/

namespace Sys2Proof.Machine

/-- `clear()`: every row 0 (R63). -/
def clearFrame : Frame := Vector.replicate 32 0x0#64

/-- A sprite byte as a row mask: its bit 7 at column `col`, bits past column 63 lost (R64). -/
def spriteMask (b : Byte) (col : Nat) : PixelRow := ((b.setWidth 64 : PixelRow) <<< 56) >>> col

/-- `draw_sprite`, from the row `row` on: rows wrap modulo 32, the top one first; the result is the
framebuffer and whether any lit pixel was turned off (R64). DEDUCED where a sentence of R67 differs (log
entry 19). -/
def drawRows (f : Frame) (col row : Nat) : List Byte → Frame × Bool
  | [] => (f, false)
  | b :: rest =>
    let m := spriteMask b col
    let old := Frame.row f row
    let below := drawRows (Frame.setRow f row (old ^^^ m)) col (row + 1) rest
    (below.1, old &&& m != 0x0#64 || below.2)

/-- `draw_sprite(x, y, rows)` with the pixel coordinates 0 to 255 (R64). -/
def drawSprite (f : Frame) (px py : Byte) (rows : List Byte) : Frame × Bool :=
  drawRows f (px.toNat % 64) py.toNat rows

/-- `00E0` CLS (R66). -/
def execCls (s : State) : Host.Outcome State Fault Refusal :=
  .next (s.setFb clearFrame).emitRedraw

/-- `Dxyn` DRW (R67): the coordinates are read before `VF` is written; a sprite byte above 0xFFF raises
before any state changes. -/
def execDrw (x y n : Nibble) (s : State) : Host.Outcome State Fault Refusal :=
  if inRange s.index.toNat n.toNat then
    let drawn := drawSprite s.fb (s.reg x) (s.reg y) (spriteBytes s n)
    .next ((s.setFb drawn.1).setReg vf (flagByte drawn.2)).emitRedraw
  else raiseFrom (.unspecified .addressOutOfRange) (.drw x y n) s

end Sys2Proof.Machine
end

