-- ==== Sys2Proof/Machine/IndexMemory.lean ====
section
/-! DEFINITION. The index and memory family, Annn, Fx1E, Fx29, Fx33, Fx55 and Fx65 (45_index_memory.md).
Every address is checked before anything is written (20_memory.md R31), and no access changes `I`
(D12, log entry 16). -/

namespace Sys2Proof.Machine

/-- `Annn` LD I (R93). -/
def execLdI (nnn : Addr) (s : State) : Host.Outcome State Fault Refusal :=
  .next (s.setIndex (addrOperand nnn))

/-- `Fx1E` ADD I (R94): the exact sum; above 0xFFF it is masked to 12 bits and `VF` becomes 1,
otherwise `VF` keeps its value (D10, log entry 16). `I` above 0xFFF is unreachable: DEDUCED, safe (log
entry 15). -/
def execAddI (x : Nibble) (s : State) : Host.Outcome State Fault Refusal :=
  let sum := s.index.toNat + (s.reg x).toNat
  if sum > 0xFFF then .next ((s.setIndex (BitVec.ofNat 16 (sum % 0x1000))).setReg vf 0x01#8)
  else .next (s.setIndex (BitVec.ofNat 16 sum))

/-- `Fx29` LD F (R95). -/
def execLdF (x : Nibble) (s : State) : Host.Outcome State Fault Refusal :=
  if (s.reg x).toNat ≤ 15 then .next (s.setIndex (glyphAddress (s.reg x)))
  else raiseFrom (.unspecified .glyphDigitOutOfRange) (.ldF x) s

/-- `Fx33` LD B (R96): hundreds, tens and ones at `I`, `I+1`, `I+2`. -/
def execLdB (x : Nibble) (s : State) : Host.Outcome State Fault Refusal :=
  if inRange s.index.toNat 3 then .next (s.store s.index.toNat (decimalDigits (s.reg x)))
  else raiseFrom (.unspecified .addressOutOfRange) (.ldB x) s

/-- `Fx55` LD [I] (R97): `V[0]` to `V[x]` at `I` on. -/
def execLdMemVx (x : Nibble) (s : State) : Host.Outcome State Fault Refusal :=
  if inRange s.index.toNat (x.toNat + 1) then .next (s.store s.index.toNat (regsUpTo s x))
  else raiseFrom (.unspecified .addressOutOfRange) (.ldMemVx x) s

/-- `Fx65` LD Vx, [I] (R98): `V[0]` to `V[x]` from `I` on. -/
def execLdVxMem (x : Nibble) (s : State) : Host.Outcome State Fault Refusal :=
  if inRange s.index.toNat (x.toNat + 1) then
    .next (s.setRegsFrom 0 (s.mem.readBytes s.index.toNat (x.toNat + 1)))
  else raiseFrom (.unspecified .addressOutOfRange) (.ldVxMem x) s

end Sys2Proof.Machine
end

