-- ==== Sys2Proof/Machine/Skips.lean ====
section
/-! DEFINITION. The conditional-skip family, 3xnn, 4xnn, 5xy0, 9xy0, Ex9E and ExA1 (43_skips.md). -/

namespace Sys2Proof.Machine

/-- A skip: where its condition holds, 2 more on the advanced `pc`, modulo 2^16 (R74). -/
def State.skipIf (s : State) (taken : Bool) : State :=
  s.setPc (if taken then s.pc + 2#16 else s.pc)

/-- `3xnn` SE (R75). -/
def execSeImm (x : Nibble) (nn : Byte) (s : State) : Host.Outcome State Fault Refusal :=
  .next (s.skipIf (s.reg x == nn))

/-- `4xnn` SNE (R76). -/
def execSneImm (x : Nibble) (nn : Byte) (s : State) : Host.Outcome State Fault Refusal :=
  .next (s.skipIf (s.reg x != nn))

/-- `5xy0` SE (R77). -/
def execSeReg (x y : Nibble) (s : State) : Host.Outcome State Fault Refusal :=
  .next (s.skipIf (s.reg x == s.reg y))

/-- `9xy0` SNE (R78). -/
def execSneReg (x y : Nibble) (s : State) : Host.Outcome State Fault Refusal :=
  .next (s.skipIf (s.reg x != s.reg y))

/-- `Ex9E` SKP (R79): one key query, which never waits. -/
def execSkp (x : Nibble) (s : State) : Host.Outcome State Fault Refusal :=
  .next (s.askKey.skipIf (keyMatches s.keyAnswer (s.reg x)))

/-- `ExA1` SKNP (R80): one key query, which never waits. -/
def execSknp (x : Nibble) (s : State) : Host.Outcome State Fault Refusal :=
  .next (s.askKey.skipIf (!keyMatches s.keyAnswer (s.reg x)))

end Sys2Proof.Machine
end

