-- ==== Sys2Proof/Machine/TimersKeys.lean ====
section
/-! DEFINITION. The timer and key-wait family, Fx07, Fx15, Fx18 and Fx0A (46_timers_keys.md), the timer
tick (60_exceptions.md R113) and the key poll (R103). -/

namespace Sys2Proof.Machine

/-- One decrement of a timer, which stops at 0 (R113, R114). -/
def countDown (b : Byte) : Byte := if b = 0x00#8 then 0x00#8 else b - 1#8

/-- `TimerTick()`: both timers count down, then the audio level is `ST ≠ 0` and the audio sink receives
it (R113, R125). -/
def timerTick (s : State) : State :=
  let st' := countDown s.st
  let on := st' != 0x00#8
  (((s.setDt (countDown s.dt)).setSt st').setAudio on).logEvent (.audio on)

/-- `Fx07` LD Vx, DT (R99). -/
def execLdVxDt (x : Nibble) (s : State) : Host.Outcome State Fault Refusal :=
  .next (s.setReg x s.dt)

/-- `Fx15` LD DT, Vx (R100). -/
def execLdDtVx (x : Nibble) (s : State) : Host.Outcome State Fault Refusal :=
  .next (s.setDt (s.reg x))

/-- `Fx18` LD ST, Vx (R101): the audio level waits for the next tick. -/
def execLdStVx (x : Nibble) (s : State) : Host.Outcome State Fault Refusal :=
  .next (s.setSt (s.reg x))

/-- `Fx0A` LD Vx, K (R102): one key query; a key ends the instruction, no key holds it. Whether a tick
is owed is set by the scheduler step that fired the dispatch (R121). DEDUCED, safe (log entry 14). -/
def execLdVxK (x : Nibble) (s : State) : Host.Outcome State Fault Refusal :=
  .next (match s.keyAnswer with
    | some c => s.askKey.setReg x (keyByte c)
    | none => s.askKey.setRun (.waitKey x false))

/-- `KeyPoll()` while `run` is `WaitKey(x, tickPending)` (R103): a key ends the wait and then runs the
tick the suspended scheduler step owes; no key changes nothing but the record of the query. -/
def keyPoll (x : Nibble) (tickPending : Bool) (s : State) : State :=
  match s.keyAnswer with
  | some c =>
    let woken := (s.askKey.setReg x (keyByte c)).setRun .running
    if tickPending then timerTick woken else woken
  | none => s.askKey

end Sys2Proof.Machine
end

