-- ==== Sys2Proof/Machine/Scheduler.lean ====
section
/-! DEFINITION. The dispatcher step (40_dispatch.md R53), the cycle scheduler (60_exceptions.md R115 to
R121), and one move of the host (R117, R123, R127). Every definition takes the scheduler's open
parameters as an argument (00_scope.md R7). -/

namespace Sys2Proof.Machine

/-- The tick units in one second at the spec's default `TICK_UNIT` of 1 microsecond (R7, R116; log
entry 4). -/
def tickUnitsPerSecond : Nat := 1000000

/-- The parameters this model's step takes: 1/700 s and 1/60 s in the default tick unit (R7, R116), and
an order of which nothing is known (R120). The tick unit is a DESIGN CHOICE, unsafe (log entry 4); the
order is DEDUCED, safe (log entry 5). -/
def params : Params where
  decodeInterval := tickUnitsPerSecond / 700
  timerInterval := tickUnitsPerSecond / 60
  sameStepOrder := Config.sameStepOrder

/-- `DispatchStep()` (R53): fetch, advance, decode, execute. A fetch past the bank raises with `pc`
unchanged (R57); a word that is no instruction raises with `pc` advanced (R58). -/
def dispatchStep (s : State) : Host.Outcome State Fault Refusal :=
  match s.fetchWord with
  | none => .next (s.raise (.unspecified .addressOutOfRange) none s.pc)
  | some w =>
    match decode w with
    | .error _ => .next (s.advancePc.raise .decodeError (some w) s.pc)
    | .ok i => exec i s.advancePc

/-- The timer tick ordered after a dispatch in one scheduler step (R110, R121): it runs if the core
still runs, is owed if the dispatch held in a key wait, and does not happen if the dispatch halted. -/
def tickAfterDispatch (s : State) : State :=
  match s.run with
  | .running => timerTick s
  | .waitKey x _ => s.setRun (.waitKey x true)
  | .halted _ => s

/-- Applies `f` to a next state; a fault or a refusal stays. -/
def onNext (o : Host.Outcome State Fault Refusal) (f : State → State) :
    Host.Outcome State Fault Refusal :=
  match o with
  | .next s => .next (f s)
  | .fault r => .fault r
  | .refused r => .refused r

/-- `acc_d + 1` exceeds the decode interval (R115). -/
def firesDispatch (p : Params) (s : State) : Bool := decide (s.accD + 1 > p.decodeInterval)

/-- `acc_t + 1` exceeds the timer interval (R115). -/
def firesTick (p : Params) (s : State) : Bool := decide (s.accT + 1 > p.timerInterval)

/-- Both accumulators advance by one tick unit, and one that exceeds its interval is reset (R115). -/
def advanceAcc (p : Params) (s : State) : State :=
  s.setAcc (if firesDispatch p s then 0 else s.accD + 1) (if firesTick p s then 0 else s.accT + 1)

/-- The actions of a scheduler step, on the state whose accumulators have advanced (R115, R120). -/
def fireActions (order : SameStepOrder) (dispatch tick : Bool) (s : State) :
    Host.Outcome State Fault Refusal :=
  match dispatch, tick with
  | false, false => .next s
  | false, true => .next (timerTick s)
  | true, false => dispatchStep s
  | true, true =>
    match order with
    | .dispatchFirst => onNext (dispatchStep s) tickAfterDispatch
    | .tickFirst => dispatchStep (timerTick s)

/-- `SchedulerStep()` (R115), one tick unit: only a running core takes it; in a key wait and after a
halt it changes nothing (R103, R123). -/
def schedulerStep (p : Params) (s : State) : Host.Outcome State Fault Refusal :=
  match s.run with
  | .running =>
    fireActions p.sameStepOrder (firesDispatch p s) (firesTick p s) (advanceAcc p s)
  | .waitKey _ _ => .next s
  | .halted _ => .next s

/-- How many scheduler steps pass before the one in which something fires (R116, R117). -/
def idleSteps (p : Params) (s : State) : Nat :=
  min (p.decodeInterval - s.accD) (p.timerInterval - s.accT)

/-- `s` after `n` scheduler steps in which nothing fires (R117). -/
def skipIdle (n : Nat) (s : State) : State := s.setAcc (s.accD + n) (s.accT + n)

/-- One event step (R117): the idle scheduler steps at once, and then the one in which a dispatch, a
tick or both fire. DEDUCED, safe (log entry 8). -/
def eventStep (p : Params) (s : State) : Host.Outcome State Fault Refusal :=
  schedulerStep p (skipIdle (idleSteps p s) s)

/-- One move of the host (R127): a running core takes an event step, a waiting one is polled (R103),
and a halted one does nothing more (R107, R123). The poll is DEDUCED and unsafe where hardware ticks
during the wait (D16, log entry 9); the rest is DEDUCED and safe (log entries 17 and 18). -/
def hostMove (p : Params) (s : State) : Host.Outcome State Fault Refusal :=
  match s.run with
  | .running => eventStep p s
  | .waitKey x tickPending => .next (keyPoll x tickPending s)
  | .halted _ => .next s

/-- `n` scheduler steps (R143). -/
def schedulerSteps (p : Params) : Nat → State → Host.Outcome State Fault Refusal
  | 0, s => .next s
  | n + 1, s =>
    match schedulerStep p s with
    | .next t => schedulerSteps p n t
    | .fault r => .fault r
    | .refused r => .refused r

/-- The scheduler step from `s` fires a dispatch: only a running core's does (40_dispatch.md R54). -/
def dispatches (p : Params) (s : State) : Bool :=
  match s.run with
  | .running => firesDispatch p s
  | .waitKey _ _ => false
  | .halted _ => false

/-- The state after `n` scheduler steps and the key polls between them (R123, R143), if it is reached
within `moves` of them: how many polls go unanswered is the host's. That bound is a DESIGN CHOICE, safe (log
entry 23). -/
def afterSchedulerSteps (p : Params) : (moves n : Nat) → State → Option State
  | _, 0, s => some s
  | 0, _ + 1, _ => none
  | moves + 1, n + 1, s =>
    match s.run with
    | .waitKey x tickPending => afterSchedulerSteps p moves (n + 1) (keyPoll x tickPending s)
    | .running | .halted _ =>
      match schedulerStep p s with
      | .next t => afterSchedulerSteps p moves n t
      | .fault _ => none
      | .refused _ => none

/-- The state after the scheduler step of the `n`-th dispatcher step (R143), if it is reached within
`moves` moves of the host (R127). That the whole scheduler step is taken is DEDUCED, the bound a DESIGN
CHOICE; both safe (log entry 23). -/
def afterDispatches (p : Params) : (moves n : Nat) → State → Option State
  | _, 0, s => some s
  | 0, _ + 1, _ => none
  | moves + 1, n + 1, s =>
    match hostMove p s with
    | .next t =>
      afterDispatches p moves (if dispatches p (skipIdle (idleSteps p s) s) then n else n + 1) t
    | .fault _ => none
    | .refused _ => none

/-- `s`, about to dispatch: running, with `pc` where a fetch stays within the bank, and with the
accumulators such that the next event fires a dispatch. A state that is so already is unchanged. -/
def readyToDispatch (p : Params) (s : State) : State :=
  let pc := if s.pc.toNat + 1 < Config.memSize then s.pc else BitVec.ofNat 16 Config.programBase
  let accD :=
    if p.decodeInterval - s.accD ≤ p.timerInterval - s.accT then s.accD else p.decodeInterval
  ((s.setRun .running).setPc pc).setAcc accD s.accT

/-- `s` with a word at the address the next event step fetches from. DESIGN CHOICE, safe (log entry 11). -/
def placeWord (p : Params) (w : Word) (s : State) : State :=
  let ready := readyToDispatch p s
  ready.store ready.pc.toNat (bytesOfWord w)

end Sys2Proof.Machine
end

