-- ==== Sys2Proof/Machine/Step.lean ====
section
/-! DEFINITION. The machine's step: one move of the host with this model's parameters
(60_exceptions.md R117, R123, R127). -/

namespace Sys2Proof.Machine

/-- One step: the next scheduler step in which something fires, or one key poll, or nothing after a
halt. -/
def step (s : State) : Host.Outcome State Fault Refusal := hostMove params s

/-- `s` with the instruction whose bits are `w` (numbered as spec/opcode_table.json numbers them) where
`step` fetches next, and the next event a dispatch. -/
def State.withFetchWord (s : State) (nbits w : Nat) : State :=
  placeWord params (BitVec.ofNat 16 (w % 2 ^ nbits)) s

end Sys2Proof.Machine
end

