-- ==== Sys2Proof/Machine/Load.lean ====
section
/-! DEFINITION. Program ingestion (70_reset_and_hazards.md R132), the host's one way to put a program
into memory, used before the first step (60_exceptions.md R127). -/

namespace Sys2Proof.Machine

/-- Why an ingestion call fails (R132). -/
inductive LoadError where
  /-- The program is longer than 4096 - 0x200 bytes. -/
  | programTooLarge
  deriving DecidableEq, Repr

/-- `load_program(bytes)`: copies the program to 0x200 on and sets `pc` to 0x200, or fails and changes
nothing (R132). -/
def loadProgram (bytes : List Byte) (s : State) : Except LoadError State :=
  if bytes.length > Config.maxProgram then .error .programTooLarge
  else .ok ((s.store Config.programBase bytes).setPc (BitVec.ofNat 16 Config.programBase))

/-- Boot: `initialize()` with some `FONT`, then one `load_program` (R133). -/
def boot (font : Font) (bytes : List Byte) : Except LoadError State :=
  loadProgram bytes (State.initialize font)

end Sys2Proof.Machine
end

