-- ==== Sys2Proof/Safety.lean ====
section
/-! DEFINITION. The terms claims about runs are stated in: the invariants of the reachable states, what
halting and idling are (70_reset_and_hazards.md R142, R144), and a pixel of the framebuffer. -/

namespace Sys2Proof.Machine

/-- The bounds every reachable state keeps: memory in canonical form; `I` at most 0xFFF (10_state.md
R19); at most 16 return addresses, each at most 0x1000 (R21, 42_control.md R71); `pc` at most 0x10FE
(R17, R72); the accumulators at most their intervals (60_exceptions.md R115). -/
abbrev State.Inv (p : Params) (s : State) : Prop :=
  s.mem.wf ∧ s.index.toNat ≤ 0xFFF ∧ s.stack.length ≤ Config.stackDepth ∧
    (∀ a ∈ s.stack, a.toNat ≤ 0x1000) ∧ s.pc.toNat ≤ 0x10FE ∧
    s.accD ≤ p.decodeInterval ∧ s.accT ≤ p.timerInterval

/-- What holds while a key wait holds: the scheduler step that dispatched the `Fx0A` has reset `acc_d`;
and where it owes a tick, it has reset `acc_t` and dispatches come before ticks (60_exceptions.md R121). -/
abbrev State.WaitInv (p : Params) (s : State) : Prop :=
  match s.run with
  | .running => True
  | .waitKey _ tickPending =>
    s.accD = 0 ∧ (tickPending = true → s.accT = 0 ∧ p.sameStepOrder = .dispatchFirst)
  | .halted _ => True

/-- The run has ended with an error: never a successful end (R144). -/
def State.isHalted (s : State) : Bool :=
  match s.run with
  | .halted _ => true
  | .running => false
  | .waitKey _ _ => false

/-- The idle state that ends a program for claims: `Running`, and the word at `pc` is a jump to `pc`
itself (R142). -/
abbrev State.idle (s : State) : Prop :=
  s.run = .running ∧ s.pc.toNat ≤ 0xFFF ∧ s.fetchWord = some (encode (.jp (s.pc.setWidth 12)))

/-- A bounded prefix of a run (60_exceptions.md R123, 70_reset_and_hazards.md R143): the host's scheduler
steps and key polls lead from `s` to `t`, with `n` scheduler steps and `d` dispatcher steps among them. -/
inductive Reaches (p : Params) (s : State) : (n d : Nat) → (t : State) → Prop
  | start : Reaches p s 0 0 s
  | schedule {n d : Nat} {t u : State} : Reaches p s n d t → (∀ x b, t.run ≠ .waitKey x b) →
      schedulerStep p t = .next u → Reaches p s (n + 1) (d + if dispatches p t then 1 else 0) u
  | poll {n d : Nat} {t : State} {x : Nibble} {tickPending : Bool} : Reaches p s n d t →
      t.run = .waitKey x tickPending → Reaches p s n d (keyPoll x tickPending t)

/-- The pixel at column `c` (left to right) of row `r` (top to bottom) is lit (10_state.md R22). -/
def Frame.pixel (f : Frame) (r c : Nat) : Bool := (Frame.row f r).getLsbD (63 - c)

/-- The pixel at row `r` and column `c` is one that a set bit of the sprite `rows`, drawn at column
`col` and from row `row` on, lands on (41_display.md R64): bit `7 - j` of byte `i` lands on column
`col + j` of row `(row + i) mod 32`. -/
def SpriteCovers (rows : List Byte) (col row r c : Nat) : Prop :=
  ∃ i : Fin rows.length, ∃ j : Fin 8,
    (row + i.val) % 32 = r ∧ col + j.val = c ∧ (rows.get i).getLsbD (7 - j.val) = true

/-- `t` is `s` halted with this record and nothing else changed (60_exceptions.md R105; what it records is
the spec's decision D23, log entry 16). -/
def HaltsWith (s t : State) (e : Error) (word : Option Word) (addr : Word) : Prop :=
  t.run = .halted ⟨e, word, addr⟩ ∧ t = { s with run := t.run }

/-- `w` is an illegal word: it decodes to no instruction, and a dispatch that fetches it halts with
`DecodeError(w)`, `pc` advanced and nothing else changed (30_encoding.md R46, 40_dispatch.md R58; the record
is R105's, by the spec's decision D23, log entry 16). -/
def RaisesDecodeError (w : Word) : Prop :=
  decode w = .error (.unlisted w) ∧
    ∀ s : State, s.fetchWord = some w →
      ∃ t, dispatchStep s = .next t ∧ HaltsWith s.advancePc t .decodeError (some w) s.pc

/-- Register `z` is one that `i` may write (10_state.md R16). -/
def mayWriteReg (i : Instr) (z : Nibble) : Bool :=
  match i with
  | .cls => false
  | .ret => false
  | .jp _ => false
  | .call _ => false
  | .seImm _ _ => false
  | .sneImm _ _ => false
  | .seReg _ _ => false
  | .ldImm x _ => z == x
  | .addImm x _ => z == x
  | .ldReg x _ => z == x
  | .orReg x _ => z == x
  | .andReg x _ => z == x
  | .xorReg x _ => z == x
  | .addReg x _ => z == x || z == vf
  | .subReg x _ => z == x || z == vf
  | .shr x _ => z == x || z == vf
  | .shl x _ => z == x || z == vf
  | .sneReg _ _ => false
  | .ldI _ => false
  | .jpV0 _ => false
  | .rnd x _ => z == x
  | .drw _ _ _ => z == vf
  | .skp _ => false
  | .sknp _ => false
  | .ldVxDt x => z == x
  | .ldVxK x => z == x
  | .ldDtVx _ => false
  | .ldStVx _ => false
  | .addI _ => z == vf
  | .ldF _ => false
  | .ldB _ => false
  | .ldMemVx _ => false
  | .ldVxMem x => decide (z.toNat ≤ x.toNat)

/-- How many bytes `i` stores, from `I` on: only `Fx33` and `Fx55` store (20_memory.md R30, R40). -/
def storeLength (i : Instr) : Nat :=
  match i with
  | .ldB _ => 3
  | .ldMemVx x => x.toNat + 1
  | .cls => 0
  | .ret => 0
  | .jp _ => 0
  | .call _ => 0
  | .seImm _ _ => 0
  | .sneImm _ _ => 0
  | .seReg _ _ => 0
  | .ldImm _ _ => 0
  | .addImm _ _ => 0
  | .ldReg _ _ => 0
  | .orReg _ _ => 0
  | .andReg _ _ => 0
  | .xorReg _ _ => 0
  | .addReg _ _ => 0
  | .subReg _ _ => 0
  | .shr _ _ => 0
  | .shl _ _ => 0
  | .sneReg _ _ => 0
  | .ldI _ => 0
  | .jpV0 _ => 0
  | .rnd _ _ => 0
  | .drw _ _ _ => 0
  | .skp _ => 0
  | .sknp _ => 0
  | .ldVxDt _ => 0
  | .ldVxK _ => 0
  | .ldDtVx _ => 0
  | .ldStVx _ => 0
  | .addI _ => 0
  | .ldF _ => 0
  | .ldVxMem _ => 0

/-- The interactions with the host that `i` makes when it completes, the latest first: a redraw of the
rows as they stand at its end, one key query, one random draw, or none (40_dispatch.md R61). -/
def interactions (i : Instr) (s t : State) : List HostEvent :=
  match i with
  | .cls => [.redraw t.fb]
  | .drw _ _ _ => [.redraw t.fb]
  | .skp _ => [.keyQuery s.keyAnswer]
  | .sknp _ => [.keyQuery s.keyAnswer]
  | .ldVxK _ => [.keyQuery s.keyAnswer]
  | .rnd _ _ => [.randomDraw s.randomByte]
  | .ret => []
  | .jp _ => []
  | .call _ => []
  | .seImm _ _ => []
  | .sneImm _ _ => []
  | .seReg _ _ => []
  | .ldImm _ _ => []
  | .addImm _ _ => []
  | .ldReg _ _ => []
  | .orReg _ _ => []
  | .andReg _ _ => []
  | .xorReg _ _ => []
  | .addReg _ _ => []
  | .subReg _ _ => []
  | .shr _ _ => []
  | .shl _ _ => []
  | .sneReg _ _ => []
  | .ldI _ => []
  | .jpV0 _ => []
  | .ldVxDt _ => []
  | .ldDtVx _ => []
  | .ldStVx _ => []
  | .addI _ => []
  | .ldF _ => []
  | .ldB _ => []
  | .ldMemVx _ => []
  | .ldVxMem _ => []

/-- `n` steps of the machine, stopping at a stop (70_reset_and_hazards.md R143). -/
abbrev runSteps (n : Nat) (s : State) : Host.Outcome State Fault Refusal := Host.Core.run Sys2Proof.core n s

end Sys2Proof.Machine
end

