-- ==== Sys2Proof/Certificates/Slice0/Obligations.lean ====
section
/-! DEFINITION. The statements for the provers. Each is about every state and every operand unless its
hypotheses say otherwise; `t = { s with f := t.f }` says that nothing but field `f` changed. An
instruction's execute part is entered with `pc` = `a + 2` (40_dispatch.md R53), so `s.pc - 2` is the
address it was fetched from. -/

open Sys2Proof Sys2Proof.Machine

/-! ## Encoding -/

/-- Words written out from the encoding column of 30_encoding.md R45, one of each family of the
table. -/
def Obligations.SampleWordsDecode : Prop :=
  decode 0x00E0#16 = .ok .cls ∧ decode 0x00EE#16 = .ok .ret ∧ decode 0x1ABC#16 = .ok (.jp 0xABC#12) ∧
  decode 0x332A#16 = .ok (.seImm 0x3#4 0x2A#8) ∧ decode 0x8236#16 = .ok (.shr 0x2#4 0x3#4) ∧
  decode 0xC40F#16 = .ok (.rnd 0x4#4 0x0F#8) ∧ decode 0xD012#16 = .ok (.drw 0x0#4 0x1#4 0x2#4) ∧
  decode 0xF133#16 = .ok (.ldB 0x1#4) ∧ decode 0xF20A#16 = .ok (.ldVxK 0x2#4) ∧
  decode 0x8017#16 = .error (.unlisted 0x8017#16)

/-- Decoding the word of any instruction gives the instruction back, from the word and from its two
bytes in memory order (30_encoding.md R41, R42, R45; 20_memory.md R27). -/
def Obligations.DecodeEncodeRoundTrip : Prop :=
  ∀ (i : Instr) (rest : List Byte),
    decode (encode i) = .ok i ∧ decodeBytes (bytesOfWord (encode i) ++ rest) = .ok (i, rest)

/-- No bit of an instruction word is dropped: an instruction comes from one word only
(30_encoding.md R42). -/
def Obligations.EncodeDecodeRoundTrip : Prop :=
  ∀ (w : Word) (i : Instr), decode w = .ok i → encode i = w

/-- Decoding is total: a word is an instruction exactly where R46 to R51 leave it legal, and then
exactly one row of R45's match and mask columns fits it; every other word is `DecodeError` with the
word itself, and no row fits it (30_encoding.md R44 to R46). -/
def Obligations.DecodeIsTotalAndUnambiguous : Prop :=
  ∀ w : Word,
    (wellFormedWord w = true → ∃ i, decode w = .ok i) ∧
    (wellFormedWord w = false → decode w = .error (.unlisted w)) ∧
    (opcodeRows.filter (fun r => r.fits w)).length = if wellFormedWord w then 1 else 0

/-- Families E and F (30_encoding.md R50, R51): the two and the nine function bytes, and every other word
raises, with the record of R105 (the spec's decision D23, log entry 16). -/
def Obligations.FamilyEAndFWords : Prop :=
  (∀ w : Word, fieldFamily w = 0xE#4 →
    (fieldNN w = 0x9E#8 → decode w = .ok (.skp (fieldX w))) ∧
    (fieldNN w = 0xA1#8 → decode w = .ok (.sknp (fieldX w))) ∧
    (fieldNN w ≠ 0x9E#8 → fieldNN w ≠ 0xA1#8 → RaisesDecodeError w)) ∧
  (∀ w : Word, fieldFamily w = 0xF#4 →
    ((∃ i, decode w = .ok i) ↔
      fieldNN w ∈ [0x07#8, 0x0A#8, 0x15#8, 0x18#8, 0x1E#8, 0x29#8, 0x33#8, 0x55#8, 0x65#8]) ∧
    (fieldNN w ∉ [0x07#8, 0x0A#8, 0x15#8, 0x18#8, 0x1E#8, 0x29#8, 0x33#8, 0x55#8, 0x65#8] →
      RaisesDecodeError w))

/-- Families 0, 5, 9 and 8 (30_encoding.md R47 to R49): every word but the listed ones raises. That
5xyN and 9xyN with N ≠ 0 raise is the spec's decision D7, the record of a raise its decision D23. -/
def Obligations.IllegalWordsOfFamilies0589 : Prop :=
  ∀ w : Word,
    (fieldFamily w = 0x0#4 → w ≠ 0x00E0#16 → w ≠ 0x00EE#16 → RaisesDecodeError w) ∧
    (fieldFamily w = 0x5#4 → fieldN w ≠ 0x0#4 → RaisesDecodeError w) ∧
    (fieldFamily w = 0x9#4 → fieldN w ≠ 0x0#4 → RaisesDecodeError w) ∧
    (fieldFamily w = 0x8#4 →
      fieldN w ∈ [0x7#4, 0x8#4, 0x9#4, 0xA#4, 0xB#4, 0xC#4, 0xD#4, 0xF#4] → RaisesDecodeError w)

/-! ## The dispatcher step -/

/-- A step runs the decoded instruction (40_dispatch.md R53, 60_exceptions.md R115, R117, R120): a
dispatch is `exec` of the decoded instruction with `pc` advanced; and the step of a running core is
that dispatch where it fires first, the tick where that fires first, and both in the open order where
they fire in one scheduler step. -/
def Obligations.StepRunsDecodedInstruction : Prop :=
  ∀ (s : State) (w : Word) (i : Instr),
    s.run = .running → s.fetchWord = some w → decode w = .ok i →
    dispatchStep s = exec i (s.setPc (s.pc + 2#16)) ∧
    (params.decodeInterval - s.accD < params.timerInterval - s.accT →
      step s = exec i ((s.setPc (s.pc + 2#16)).setAcc 0
        (s.accT + (params.decodeInterval - s.accD) + 1))) ∧
    (params.timerInterval - s.accT < params.decodeInterval - s.accD →
      step s = .next (timerTick (s.setAcc (s.accD + (params.timerInterval - s.accT) + 1) 0))) ∧
    (params.decodeInterval - s.accD = params.timerInterval - s.accT →
      step s =
        match params.sameStepOrder with
        | .dispatchFirst => onNext (exec i ((s.setPc (s.pc + 2#16)).setAcc 0 0)) tickAfterDispatch
        | .tickFirst => exec i (timerTick ((s.setPc (s.pc + 2#16)).setAcc 0 0)))

/-- A fetch at `pc` ≥ 0xFFF halts with the spec's fault, no word recorded, and `pc` kept
(40_dispatch.md R57, 20_memory.md R31; the spec's decision D3, the record by its decision D23). -/
def Obligations.FetchPastTheBankFaults : Prop :=
  ∀ s : State, 0xFFF ≤ s.pc.toNat →
    ∃ t, dispatchStep s = .next t ∧ HaltsWith s t (.unspecified .addressOutOfRange) none s.pc

/-- A fetched word that decodes to no instruction halts, after `pc` has been advanced
(40_dispatch.md R58); that the record holds the address it was fetched from is the spec's decision D23
(60_exceptions.md R105, log entry 16). -/
def Obligations.DecodeErrorHaltsAfterTheAdvance : Prop :=
  ∀ (s : State) (w : Word) (r : DecodeReject), s.fetchWord = some w → decode w = .error r →
    ∃ t, dispatchStep s = .next t ∧ t.pc = s.pc + 2#16 ∧
      t.run = .halted ⟨.decodeError, some w, s.pc⟩ ∧ t = { s with pc := t.pc, run := t.run }

/-- `Halted` is absorbing: neither a step of the machine nor a scheduler step changes anything
(60_exceptions.md R107, R123). -/
def Obligations.HaltedIsAbsorbing : Prop :=
  ∀ (s : State) (r : HaltRecord), s.run = .halted r →
    step s = .next s ∧ ∀ p : Params, schedulerStep p s = .next s

/-! ## Display -/

/-- `00E0` (41_display.md R66): every row 0, one redraw of them, nothing else. -/
def Obligations.ClsClearsAndRedraws : Prop :=
  decode 0x00E0#16 = .ok .cls ∧
  ∀ s : State, ∃ t, exec .cls s = .next t ∧
    (∀ r, Frame.row t.fb r = 0x0#64) ∧ t.hostLog = .redraw t.fb :: s.hostLog ∧
    t = { s with fb := t.fb, hostLog := t.hostLog }

/-- `draw_sprite` (41_display.md R64), pixel by pixel: a pixel that a set sprite bit lands on toggles,
every other keeps its value, rows wrap and columns past 63 are lost; the collision flag says that some
lit pixel was one of them. A sprite has at most 15 rows. -/
def Obligations.DrawSpriteTogglesPixels : Prop :=
  ∀ (f : Frame) (px py : Byte) (rows : List Byte), rows.length ≤ 15 →
    (∀ r c, r < 32 → c < 64 →
      (SpriteCovers rows (px.toNat % 64) py.toNat r c →
        Frame.pixel (drawSprite f px py rows).1 r c = !Frame.pixel f r c) ∧
      (¬SpriteCovers rows (px.toNat % 64) py.toNat r c →
        Frame.pixel (drawSprite f px py rows).1 r c = Frame.pixel f r c)) ∧
    ((drawSprite f px py rows).2 = true ↔
      ∃ r c, r < 32 ∧ c < 64 ∧ Frame.pixel f r c = true ∧
        SpriteCovers rows (px.toNat % 64) py.toNat r c)

/-- `Dxyn` (41_display.md R67) with every sprite byte in the bank: the sprite is the `n` bytes at `I`,
drawn at the old `V[x]`, `V[y]`; `VF` is 1 or 0 for a collision; one redraw; nothing else. A height of 0
reads nothing, draws nothing and clears `VF` (the spec's decision D13). -/
def Obligations.DrwDrawsSprite : Prop :=
  ∀ x y n : Nibble,
    decode (0xD#4 ++ x ++ y ++ n) = .ok (.drw x y n) ∧
    ∀ s : State, (n = 0x0#4 ∨ s.index.toNat + n.toNat ≤ 0x1000) →
      ∃ (t : State) (rows : List Byte), exec (.drw x y n) s = .next t ∧
        rows.length = n.toNat ∧
        (∀ k (h : k < rows.length), rows[k] = s.mem.read (s.index.toNat + k)) ∧
        t.fb = (drawSprite s.fb (s.reg x) (s.reg y) rows).1 ∧
        t.reg 0xF#4 = (if (drawSprite s.fb (s.reg x) (s.reg y) rows).2 then 0x01#8 else 0x00#8) ∧
        (∀ z, z ≠ 0xF#4 → t.reg z = s.reg z) ∧
        t.hostLog = .redraw t.fb :: s.hostLog ∧
        t = { s with v := t.v, fb := t.fb, hostLog := t.hostLog }

/-- Drawing the same sprite twice at the same place restores the framebuffer, and the second draw
collides exactly where a set bit of the sprite lands on a pixel that was dark before the first
(41_display.md R67, from the pseudocode of R64; log entry 19). -/
def Obligations.DrawingTwiceRestores : Prop :=
  ∀ (f : Frame) (px py : Byte) (rows : List Byte), rows.length ≤ 15 →
    (drawSprite (drawSprite f px py rows).1 px py rows).1 = f ∧
    ((drawSprite (drawSprite f px py rows).1 px py rows).2 = true ↔
      ∃ r c, r < 32 ∧ c < 64 ∧ Frame.pixel f r c = false ∧
        SpriteCovers rows (px.toNat % 64) py.toNat r c)

/-! ## Control transfer -/

/-- `00EE` (42_control.md R69): pops the most recently pushed address into `pc`; an empty stack halts
with `StackUnderflow`, `pc` kept at `a + 2`; the record's word and address are R105's, by the spec's
decision D23 (log entry 16), with the address taken as `pc - 2` (log entry 12). -/
def Obligations.RetPopsOrUnderflows : Prop :=
  decode 0x00EE#16 = .ok .ret ∧
  (∀ (s : State) (a : Word) (rest : List Word), s.stack = a :: rest →
    exec .ret s = .next { s with stack := rest, pc := a }) ∧
  (∀ s : State, s.stack = [] →
    ∃ t, exec .ret s = .next t ∧ HaltsWith s t .stackUnderflow (some 0x00EE#16) (s.pc - 2#16))

/-- `1nnn` and `Bnnn` (42_control.md R70, R72): the target, and the target plus `V0`; that the sum
is not masked is the spec's decision D4 (log entry 22). -/
def Obligations.JumpsWritePc : Prop :=
  ∀ nnn : Addr,
    decode (0x1#4 ++ nnn) = .ok (.jp nnn) ∧ decode (0xB#4 ++ nnn) = .ok (.jpV0 nnn) ∧
    ∀ s : State,
      (∃ t, exec (.jp nnn) s = .next t ∧ t.pc.toNat = nnn.toNat ∧ t = { s with pc := t.pc }) ∧
      (∃ t, exec (.jpV0 nnn) s = .next t ∧ t.pc.toNat = nnn.toNat + (s.reg 0x0#4).toNat ∧
        t = { s with pc := t.pc })

/-- `2nnn` (42_control.md R71): with fewer than 16 entries it pushes `pc`, the address after the call,
and jumps; with 16 it halts with `StackOverflow`, stack and `pc` kept (the spec's decision D23). -/
def Obligations.CallPushesOrOverflows : Prop :=
  ∀ nnn : Addr,
    decode (0x2#4 ++ nnn) = .ok (.call nnn) ∧
    ∀ s : State,
      (s.stack.length < 16 →
        ∃ t, exec (.call nnn) s = .next t ∧ t.stack = s.pc :: s.stack ∧ t.pc.toNat = nnn.toNat ∧
          t = { s with stack := t.stack, pc := t.pc }) ∧
      (s.stack.length = 16 →
        ∃ t, exec (.call nnn) s = .next t ∧
          HaltsWith s t .stackOverflow (some (0x2#4 ++ nnn)) (s.pc - 2#16))

/-! ## Skips -/

/-- `3xnn` and `4xnn` (43_skips.md R75, R76): the first skips exactly where the second does not. -/
def Obligations.ImmediateSkips : Prop :=
  ∀ (x : Nibble) (nn : Byte),
    decode (0x3#4 ++ x ++ nn) = .ok (.seImm x nn) ∧ decode (0x4#4 ++ x ++ nn) = .ok (.sneImm x nn) ∧
    ∀ s : State,
      exec (.seImm x nn) s = .next { s with pc := if s.reg x = nn then s.pc + 2#16 else s.pc } ∧
      exec (.sneImm x nn) s = .next { s with pc := if s.reg x ≠ nn then s.pc + 2#16 else s.pc }

/-- `5xy0` and `9xy0` (43_skips.md R77, R78); a low nibble other than 0 is a `DecodeError`. -/
def Obligations.RegisterSkips : Prop :=
  ∀ x y : Nibble,
    decode (0x5#4 ++ x ++ y ++ 0x0#4) = .ok (.seReg x y) ∧
    decode (0x9#4 ++ x ++ y ++ 0x0#4) = .ok (.sneReg x y) ∧
    (∀ n : Nibble, n ≠ 0x0#4 →
      RaisesDecodeError (0x5#4 ++ x ++ y ++ n) ∧ RaisesDecodeError (0x9#4 ++ x ++ y ++ n)) ∧
    ∀ s : State,
      exec (.seReg x y) s = .next { s with pc := if s.reg x = s.reg y then s.pc + 2#16 else s.pc } ∧
      exec (.sneReg x y) s = .next { s with pc := if s.reg x ≠ s.reg y then s.pc + 2#16 else s.pc }

/-- `Ex9E` and `ExA1` (43_skips.md R79, R80): one key query; the first skips exactly where the answer is
the code `V[x]`, the second exactly where it is not. The answer is the host's (60_exceptions.md R126). -/
def Obligations.KeySkips : Prop :=
  ∀ x : Nibble,
    decode (0xE#4 ++ x ++ 0x9E#8) = .ok (.skp x) ∧ decode (0xE#4 ++ x ++ 0xA1#8) = .ok (.sknp x) ∧
    ∀ s : State, ∃ t u, exec (.skp x) s = .next t ∧ exec (.sknp x) s = .next u ∧
      (∀ c, s.keyAnswer = some c → c.toNat = (s.reg x).toNat → t.pc = s.pc + 2#16 ∧ u.pc = s.pc) ∧
      (∀ c, s.keyAnswer = some c → c.toNat ≠ (s.reg x).toNat → t.pc = s.pc ∧ u.pc = s.pc + 2#16) ∧
      (s.keyAnswer = none → t.pc = s.pc ∧ u.pc = s.pc + 2#16) ∧
      t = { s.askKey with pc := t.pc } ∧ u = { s.askKey with pc := u.pc }

/-! ## Registers and arithmetic -/

/-- `6xnn` (44_alu.md R82). -/
def Obligations.LdImmLoadsByte : Prop :=
  ∀ (x : Nibble) (nn : Byte),
    decode (0x6#4 ++ x ++ nn) = .ok (.ldImm x nn) ∧
    ∀ s : State, ∃ t, exec (.ldImm x nn) s = .next t ∧ t.reg x = nn ∧
      (∀ z, z ≠ x → t.reg z = s.reg z) ∧ t = { s with v := t.v }

/-- `7xnn` (44_alu.md R83): the sum modulo 256, and no flag. -/
def Obligations.AddImmWrapsWithoutFlag : Prop :=
  ∀ (x : Nibble) (nn : Byte),
    decode (0x7#4 ++ x ++ nn) = .ok (.addImm x nn) ∧
    ∀ s : State, ∃ t, exec (.addImm x nn) s = .next t ∧
      (t.reg x).toNat = ((s.reg x).toNat + nn.toNat) % 256 ∧
      (∀ z, z ≠ x → t.reg z = s.reg z) ∧ t = { s with v := t.v }

/-- `8xy0` to `8xy3` (44_alu.md R84 to R87): copy, OR, AND and XOR into `V[x]`; that they write no flag is
the spec's decision D9. -/
def Obligations.CopyAndLogicWriteOnlyVx : Prop :=
  ∀ x y : Nibble,
    decode (0x8#4 ++ x ++ y ++ 0x0#4) = .ok (.ldReg x y) ∧
    decode (0x8#4 ++ x ++ y ++ 0x1#4) = .ok (.orReg x y) ∧
    decode (0x8#4 ++ x ++ y ++ 0x2#4) = .ok (.andReg x y) ∧
    decode (0x8#4 ++ x ++ y ++ 0x3#4) = .ok (.xorReg x y) ∧
    ∀ (s : State) (i : Instr) (result : Byte),
      (i, result) ∈ [(Instr.ldReg x y, s.reg y), (Instr.orReg x y, s.reg x ||| s.reg y),
        (Instr.andReg x y, s.reg x &&& s.reg y), (Instr.xorReg x y, s.reg x ^^^ s.reg y)] →
      ∃ t, exec i s = .next t ∧ t.reg x = result ∧ (∀ z, z ≠ x → t.reg z = s.reg z) ∧
        t = { s with v := t.v }

/-- `8xy4` (44_alu.md R88): the sum modulo 256 in `V[x]`, then the carry in `VF`. That
the flag comes last, so that `VF` as destination holds it, is the spec's decision D8 (log entry 16). -/
def Obligations.AddRegSetsCarry : Prop :=
  ∀ x y : Nibble,
    decode (0x8#4 ++ x ++ y ++ 0x4#4) = .ok (.addReg x y) ∧
    ∀ s : State, ∃ t, exec (.addReg x y) s = .next t ∧
      (x ≠ 0xF#4 → (t.reg x).toNat = ((s.reg x).toNat + (s.reg y).toNat) % 256) ∧
      t.reg 0xF#4 = (if (s.reg x).toNat + (s.reg y).toNat > 255 then 0x01#8 else 0x00#8) ∧
      (∀ z, z ≠ x → z ≠ 0xF#4 → t.reg z = s.reg z) ∧ t = { s with v := t.v }

/-- `8xy5` (44_alu.md R89): the difference modulo 256 in `V[x]`, then 1 in `VF` where there is no
borrow. That the flag comes last is the spec's decision D8 (log entry 16). -/
def Obligations.SubSetsNoBorrow : Prop :=
  ∀ x y : Nibble,
    decode (0x8#4 ++ x ++ y ++ 0x5#4) = .ok (.subReg x y) ∧
    ∀ s : State, ∃ t, exec (.subReg x y) s = .next t ∧
      (x ≠ 0xF#4 → (t.reg x).toNat = ((s.reg x).toNat + 256 - (s.reg y).toNat) % 256) ∧
      t.reg 0xF#4 = (if (s.reg x).toNat ≥ (s.reg y).toNat then 0x01#8 else 0x00#8) ∧
      (∀ z, z ≠ x → z ≠ 0xF#4 → t.reg z = s.reg z) ∧ t = { s with v := t.v }

/-- `8xy6` (44_alu.md R90): half of `V[y]` in `V[x]`, then bit 0 of the old `V[y]` in `VF`.
That the flag comes last is the spec's decision D8 (log entry 16). -/
def Obligations.ShrShiftsVy : Prop :=
  ∀ x y : Nibble,
    decode (0x8#4 ++ x ++ y ++ 0x6#4) = .ok (.shr x y) ∧
    ∀ s : State, ∃ t, exec (.shr x y) s = .next t ∧
      (x ≠ 0xF#4 → (t.reg x).toNat = (s.reg y).toNat / 2) ∧
      (t.reg 0xF#4).toNat = (s.reg y).toNat % 2 ∧
      (∀ z, z ≠ x → z ≠ 0xF#4 → t.reg z = s.reg z) ∧ t = { s with v := t.v }

/-- `8xyE` (44_alu.md R91): twice `V[y]` modulo 256 in `V[x]`, then bit 7 of the old `V[y]` in `VF` as 1
or 0 (the boolean's value is the spec's inference from R15; that the flag comes last is its decision D8). -/
def Obligations.ShlShiftsVy : Prop :=
  ∀ x y : Nibble,
    decode (0x8#4 ++ x ++ y ++ 0xE#4) = .ok (.shl x y) ∧
    ∀ s : State, ∃ t, exec (.shl x y) s = .next t ∧
      (x ≠ 0xF#4 → (t.reg x).toNat = 2 * (s.reg y).toNat % 256) ∧
      (t.reg 0xF#4).toNat = (s.reg y).toNat / 128 ∧
      (∀ z, z ≠ x → z ≠ 0xF#4 → t.reg z = s.reg z) ∧ t = { s with v := t.v }

/-- `Cxnn` (44_alu.md R92): one draw, masked by `nn`; the byte drawn is the host's (the spec's decision
D14), and nothing rests on which byte it is. -/
def Obligations.RndMasksOneDraw : Prop :=
  ∀ (x : Nibble) (nn : Byte),
    decode (0xC#4 ++ x ++ nn) = .ok (.rnd x nn) ∧
    ∀ s : State, ∃ t, exec (.rnd x nn) s = .next t ∧ t.reg x = s.randomByte &&& nn ∧
      t.hostLog = .randomDraw s.randomByte :: s.hostLog ∧
      (∀ z, z ≠ x → t.reg z = s.reg z) ∧ t = { s.drawRandom with v := t.v }

/-! ## Index and memory -/

/-- `Annn` (45_index_memory.md R93). -/
def Obligations.LdILoadsAddress : Prop :=
  ∀ nnn : Addr,
    decode (0xA#4 ++ nnn) = .ok (.ldI nnn) ∧
    ∀ s : State, ∃ t, exec (.ldI nnn) s = .next t ∧ t.index.toNat = nnn.toNat ∧
      t = { s with index := t.index }

/-- `Fx1E` (45_index_memory.md R94): the sum, masked to 12 bits with `VF` set to 1 where it exceeds
0xFFF; otherwise `VF` keeps its value (the spec's decision D10). -/
def Obligations.AddIMasksOnOverflow : Prop :=
  ∀ x : Nibble,
    decode (0xF#4 ++ x ++ 0x1E#8) = .ok (.addI x) ∧
    ∀ s : State, ∃ t, exec (.addI x) s = .next t ∧
      (s.index.toNat + (s.reg x).toNat > 0xFFF →
        t.index.toNat = (s.index.toNat + (s.reg x).toNat) % 0x1000 ∧ t.reg 0xF#4 = 0x01#8 ∧
        (∀ z, z ≠ 0xF#4 → t.reg z = s.reg z)) ∧
      (s.index.toNat + (s.reg x).toNat ≤ 0xFFF →
        t.index.toNat = s.index.toNat + (s.reg x).toNat ∧ t.v = s.v) ∧
      t = { s with v := t.v, index := t.index }

/-- `Fx29` (45_index_memory.md R95): five bytes a glyph from 0x000; a digit above 15 halts with the
spec's fault (its decision D11, the record by its decision D23). -/
def Obligations.LdFPointsAtGlyph : Prop :=
  ∀ x : Nibble,
    decode (0xF#4 ++ x ++ 0x29#8) = .ok (.ldF x) ∧
    ∀ s : State,
      ((s.reg x).toNat ≤ 15 →
        ∃ t, exec (.ldF x) s = .next t ∧ t.index.toNat = 5 * (s.reg x).toNat ∧
          t = { s with index := t.index }) ∧
      ((s.reg x).toNat > 15 →
        ∃ t, exec (.ldF x) s = .next t ∧
          HaltsWith s t (.unspecified .glyphDigitOutOfRange) (some (0xF#4 ++ x ++ 0x29#8)) (s.pc - 2#16))

/-- `Fx33` (45_index_memory.md R96) within the bank: hundreds, tens and ones at `I`, `I+1`, `I+2`, in
this order (the spec's decision D28); every other byte, and everything else, unchanged. -/
def Obligations.LdBStoresDigits : Prop :=
  ∀ x : Nibble,
    decode (0xF#4 ++ x ++ 0x33#8) = .ok (.ldB x) ∧
    ∀ s : State, s.index.toNat + 2 ≤ 0xFFF →
      ∃ t, exec (.ldB x) s = .next t ∧
        (t.mem.read s.index.toNat).toNat = (s.reg x).toNat / 100 ∧
        (t.mem.read (s.index.toNat + 1)).toNat = (s.reg x).toNat / 10 % 10 ∧
        (t.mem.read (s.index.toNat + 2)).toNat = (s.reg x).toNat % 10 ∧
        (∀ a, (a < s.index.toNat ∨ s.index.toNat + 3 ≤ a) → t.mem.read a = s.mem.read a) ∧
        t = { s with mem := t.mem }

/-- `Fx55` (45_index_memory.md R97) within the bank: `V[k]` at `I + k` for `k` up to `x`; every other byte
unchanged, and `I` too (the spec's decision D12). -/
def Obligations.LdMemVxStoresRegisters : Prop :=
  ∀ x : Nibble,
    decode (0xF#4 ++ x ++ 0x55#8) = .ok (.ldMemVx x) ∧
    ∀ s : State, s.index.toNat + x.toNat ≤ 0xFFF →
      ∃ t, exec (.ldMemVx x) s = .next t ∧
        (∀ k : Nibble, k.toNat ≤ x.toNat → t.mem.read (s.index.toNat + k.toNat) = s.reg k) ∧
        (∀ a, (a < s.index.toNat ∨ s.index.toNat + x.toNat < a) → t.mem.read a = s.mem.read a) ∧
        t = { s with mem := t.mem }

/-- `Fx65` (45_index_memory.md R98) within the bank: `V[k]` from `I + k` for `k` up to `x`; every other
register unchanged, and `I` too (the spec's decision D12). -/
def Obligations.LdVxMemLoadsRegisters : Prop :=
  ∀ x : Nibble,
    decode (0xF#4 ++ x ++ 0x65#8) = .ok (.ldVxMem x) ∧
    ∀ s : State, s.index.toNat + x.toNat ≤ 0xFFF →
      ∃ t, exec (.ldVxMem x) s = .next t ∧
        (∀ k : Nibble, k.toNat ≤ x.toNat → t.reg k = s.mem.read (s.index.toNat + k.toNat)) ∧
        (∀ k : Nibble, x.toNat < k.toNat → t.reg k = s.reg k) ∧
        t = { s with v := t.v }

/-- The four data accesses that run past 0xFFF halt with the spec's fault and write nothing
(20_memory.md R31; the spec's decision D3, the record by its decision D23). -/
def Obligations.AccessPastTheBankFaults : Prop :=
  ∀ (s : State) (i : Instr) (length : Nat),
    (∃ x y n, i = .drw x y n ∧ length = n.toNat) ∨ (∃ x, i = .ldB x ∧ length = 3) ∨
      (∃ x : Nibble, (i = .ldMemVx x ∨ i = .ldVxMem x) ∧ length = x.toNat + 1) →
    0 < length → s.index.toNat + length > 0x1000 →
    ∃ t, exec i s = .next t ∧
      HaltsWith s t (.unspecified .addressOutOfRange) (some (encode i)) (s.pc - 2#16)

/-- What `Fx55` stores, `Fx65` loads back, whatever happened to the registers between
(45_index_memory.md R98). -/
def Obligations.StoreThenLoadRestoresRegisters : Prop :=
  ∀ (x : Nibble) (s : State), s.index.toNat + x.toNat ≤ 0xFFF →
    ∃ t, exec (.ldMemVx x) s = .next t ∧
      ∀ v : Vector Byte 16, ∃ u, exec (.ldVxMem x) { t with v := v } = .next u ∧
        u.mem = t.mem ∧ u.index = s.index ∧ ∀ k : Nibble, k.toNat ≤ x.toNat → u.reg k = s.reg k

/-- A store is seen by the very next fetch: `Fx55` over the word at `pc` makes `V0` and `V1` the next
instruction word (20_memory.md R38, R27). -/
def Obligations.StoreIsSeenByNextFetch : Prop :=
  ∀ (x : Nibble) (s : State), s.index = s.pc → 1 ≤ x.toNat → s.index.toNat + x.toNat ≤ 0xFFF →
    ∃ t, exec (.ldMemVx x) s = .next t ∧ t.fetchWord = some (s.reg 0x0#4 ++ s.reg 0x1#4)

/-! ## Timers and keys -/

/-- `Fx07` and `Fx15` (46_timers_keys.md R99, R100). -/
def Obligations.DelayTimerReadAndSet : Prop :=
  ∀ x : Nibble,
    decode (0xF#4 ++ x ++ 0x07#8) = .ok (.ldVxDt x) ∧ decode (0xF#4 ++ x ++ 0x15#8) = .ok (.ldDtVx x) ∧
    ∀ s : State,
      (∃ t, exec (.ldVxDt x) s = .next t ∧ t.reg x = s.dt ∧ (∀ z, z ≠ x → t.reg z = s.reg z) ∧
        t = { s with v := t.v }) ∧
      exec (.ldDtVx x) s = .next { s with dt := s.reg x }

/-- `Fx18` (46_timers_keys.md R101): sets the sound timer; the audio level waits for the next tick, at
which a timer set to 1 does not assert it. -/
def Obligations.SoundTimerSetLeavesAudio : Prop :=
  ∀ x : Nibble,
    decode (0xF#4 ++ x ++ 0x18#8) = .ok (.ldStVx x) ∧
    ∀ s : State, exec (.ldStVx x) s = .next { s with st := s.reg x } ∧
      (timerTick { s with st := 0x01#8 }).audioOn = false

/-- `Fx0A` (46_timers_keys.md R102): a key at the first query is stored and the instruction completes;
no key holds the core in a key wait for `V[x]`. The answer is the host's (60_exceptions.md R126); that a
held key counts is the spec's decision D33. -/
def Obligations.KeyWaitStoresOrHolds : Prop :=
  ∀ x : Nibble,
    decode (0xF#4 ++ x ++ 0x0A#8) = .ok (.ldVxK x) ∧
    ∀ s : State,
      (∀ c, s.keyAnswer = some c → ∃ t, exec (.ldVxK x) s = .next t ∧ (t.reg x).toNat = c.toNat ∧
        (∀ z, z ≠ x → t.reg z = s.reg z) ∧ t = { s.askKey with v := t.v }) ∧
      (s.keyAnswer = none → exec (.ldVxK x) s = .next { s.askKey with run := .waitKey x false })

/-- A key poll (46_timers_keys.md R103, 60_exceptions.md R121, R130; the spec's decision D16): no key
changes nothing but the record of the query; a key is stored, the core runs again, and the tick that
the suspended scheduler step owes runs; a scheduler step during the wait changes nothing. -/
def Obligations.KeyPollEndsTheWait : Prop :=
  ∀ (s : State) (x : Nibble) (owed : Bool), s.run = .waitKey x owed →
    (∀ p : Params, schedulerStep p s = .next s) ∧
    (s.keyAnswer = none → step s = .next s.askKey) ∧
    (∀ c, s.keyAnswer = some c → ∃ t, step s = .next t ∧ t.run = .running ∧
      (t.reg x).toNat = c.toNat ∧ (∀ z, z ≠ x → t.reg z = s.reg z) ∧
      (owed = false → t = { s.askKey with v := t.v, run := t.run }) ∧
      (owed = true → t = timerTick { s.askKey with v := t.v, run := t.run }))

/-- The timer tick (60_exceptions.md R113, R114; the spec's decision D17): each timer counts down and
stops at 0, the audio level is asserted exactly where `ST` was 2 or more, the sink receives it, and
nothing else changes. -/
def Obligations.TimerTickCountsDown : Prop :=
  ∀ s : State,
    (timerTick s).dt.toNat = s.dt.toNat - 1 ∧ (timerTick s).st.toNat = s.st.toNat - 1 ∧
    ((timerTick s).audioOn = true ↔ 2 ≤ s.st.toNat) ∧
    (timerTick s).hostLog = .audio (timerTick s).audioOn :: s.hostLog ∧
    timerTick s = { s with
      dt := (timerTick s).dt
      st := (timerTick s).st
      audioOn := (timerTick s).audioOn
      hostLog := (timerTick s).hostLog }

/-! ## The scheduler -/

/-- One scheduler step of a running core (60_exceptions.md R115, R110, R120, R121; the spec's decision
D19): each accumulator advances by 1 and is reset where it then exceeds its interval, and what exceeds
fires. Where both fire and dispatches come first, the tick runs, is owed, or does not happen as the
dispatch runs on, holds or halts. -/
def Obligations.SchedulerStepFires : Prop :=
  ∀ (p : Params) (s : State), s.run = .running →
    (s.accD + 1 ≤ p.decodeInterval → s.accT + 1 ≤ p.timerInterval →
      schedulerStep p s = .next { s with accD := s.accD + 1, accT := s.accT + 1 }) ∧
    (s.accD + 1 > p.decodeInterval → s.accT + 1 ≤ p.timerInterval →
      schedulerStep p s = dispatchStep { s with accD := 0, accT := s.accT + 1 }) ∧
    (s.accD + 1 ≤ p.decodeInterval → s.accT + 1 > p.timerInterval →
      schedulerStep p s = .next (timerTick { s with accD := s.accD + 1, accT := 0 })) ∧
    (s.accD + 1 > p.decodeInterval → s.accT + 1 > p.timerInterval →
      (p.sameStepOrder = .tickFirst →
        schedulerStep p s = dispatchStep (timerTick { s with accD := 0, accT := 0 })) ∧
      (p.sameStepOrder = .dispatchFirst →
        ∀ u, dispatchStep { s with accD := 0, accT := 0 } = .next u →
          (u.run = .running → schedulerStep p s = .next (timerTick u)) ∧
          (∀ x b, u.run = .waitKey x b → schedulerStep p s = .next { u with run := .waitKey x true }) ∧
          (∀ r, u.run = .halted r → schedulerStep p s = .next u)))

/-- The periods (60_exceptions.md R116): counted from a state with both accumulators 0, as long as the
core runs, after `n` scheduler steps each accumulator is `n` modulo its period, and step `n + 1` fires a
dispatch, or a tick, exactly where `n + 1` is a multiple of its period. How the accumulators count is the
spec's decision D19 (log entry 16). -/
def Obligations.FiringsArePeriodic : Prop :=
  ∀ (p : Params) (n : Nat) (s t : State), s.accD = 0 → s.accT = 0 →
    schedulerSteps p n s = .next t → t.run = .running →
    t.accD = n % (p.decodeInterval + 1) ∧ t.accT = n % (p.timerInterval + 1) ∧
    (firesDispatch p t = true ↔ (n + 1) % (p.decodeInterval + 1) = 0) ∧
    (firesTick p t = true ↔ (n + 1) % (p.timerInterval + 1) = 0)

/-- The event step is the scheduler's steps (60_exceptions.md R117), for every tick unit and either
order: a step of a running core is the next `idleSteps + 1` scheduler steps, and in the first
`idleSteps` of them nothing happens but the counting. -/
def Obligations.EventStepRefinesSchedulerSteps : Prop :=
  ∀ (p : Params) (s : State), s.run = .running →
    hostMove p s = schedulerSteps p (idleSteps p s + 1) s ∧
    ∀ n, n ≤ idleSteps p s →
      schedulerSteps p n s = .next { s with accD := s.accD + n, accT := s.accT + n }

/-- Bounded prefixes (70_reset_and_hazards.md R143, 60_exceptions.md R123; that claims may be stated so is
the spec's decision D30): what the two functions answer for N scheduler steps and for N dispatcher steps is
reached by a run with as many, and where a run has as many they answer within some number of moves. R143 is
silent on two points that are the model's choice (log entry 23): the state after N dispatcher steps is the
one after the whole scheduler step of the N-th, and the functions take a bound on the host's moves. -/
def Obligations.BoundedPrefixesAreRuns : Prop :=
  ∀ (p : Params) (s : State),
    (∀ moves n t, afterSchedulerSteps p moves n s = some t → ∃ d, Reaches p s n d t) ∧
    (∀ moves d t, afterDispatches p moves d s = some t → ∃ n, Reaches p s n d t) ∧
    ∀ n d t, Reaches p s n d t →
      (∃ moves u, afterSchedulerSteps p moves n s = some u) ∧
      ∃ moves u, afterDispatches p moves d s = some u

/-! ## Whole-machine rules -/

/-- Only the registers that 10_state.md R16 lists for an instruction can change (its list is the spec's
inference from the instruction rules). -/
def Obligations.OnlyListedRegistersChange : Prop :=
  ∀ (i : Instr) (s t : State), exec i s = .next t →
    ∀ z : Nibble, mayWriteReg i z = false → t.reg z = s.reg z

/-- Only `Fx33` and `Fx55` write memory, and only the bytes from `I` on that they store
(20_memory.md R28, R30, R40). None changes the `FONT` the bank was initialized with (00_scope.md R7). -/
def Obligations.OnlyStoresWriteMemory : Prop :=
  ∀ (i : Instr) (s t : State), exec i s = .next t →
    (storeLength i = 0 → t.mem = s.mem) ∧
    (∀ a, (a < s.index.toNat ∨ s.index.toNat + storeLength i ≤ a) → t.mem.read a = s.mem.read a) ∧
    t.mem.font = s.mem.font

/-- Which instructions change the framebuffer, the stack, `I` and the timers; that none changes the audio
level or the accumulators (10_state.md R18, R20 to R23, R25). -/
def Obligations.OnlyNamedInstructionsChangeTheRest : Prop :=
  ∀ (i : Instr) (s t : State), exec i s = .next t →
    (t.fb ≠ s.fb → i = .cls ∨ ∃ x y n, i = .drw x y n) ∧
    (t.stack ≠ s.stack → i = .ret ∨ ∃ nnn, i = .call nnn) ∧
    (t.index ≠ s.index → (∃ nnn, i = .ldI nnn) ∨ (∃ x, i = .addI x) ∨ ∃ x, i = .ldF x) ∧
    (t.dt ≠ s.dt → ∃ x, i = .ldDtVx x) ∧
    (t.st ≠ s.st → ∃ x, i = .ldStVx x) ∧
    t.audioOn = s.audioOn ∧ t.accD = s.accD ∧ t.accT = s.accT

/-- The interactions with the host are none where the instruction raises, and otherwise exactly those of its
rule (40_dispatch.md R61). An instruction is entered in a state that is not halted (R54), so a halted next
state is one that raised. -/
def Obligations.HostInteractionsAreListed : Prop :=
  ∀ (i : Instr) (s t : State), exec i s = .next t → (∀ r, s.run ≠ .halted r) →
    ((∃ r, t.run = .halted r) → t.hostLog = s.hostLog) ∧
    ((∀ r, t.run ≠ .halted r) → t.hostLog = interactions i s t ++ s.hostLog)

/-- Every instruction answers a next state; it leaves `run` as it was, or halts with its own word and
address and nothing else changed, or is the `Fx0A` that holds (40_dispatch.md R54, R55; 60_exceptions.md
R105, R108). -/
def Obligations.EveryInstructionAnswers : Prop :=
  ∀ (i : Instr) (s : State), ∃ t, exec i s = .next t ∧
    (t.run = s.run ∨ (∃ e, HaltsWith s t e (some (encode i)) (s.pc - 2#16)) ∨
      ∃ x, i = .ldVxK x ∧ t.run = .waitKey x false)

/-- No instruction reads the accumulators or the audio level, and none reads `ST`: what they hold does
not show in the rest of the next state (10_state.md R20, R25). -/
def Obligations.AccumulatorsAndSoundAreNotRead : Prop :=
  ∀ (i : Instr) (s : State) (d a : Nat) (on : Bool),
    exec i ((s.setAcc d a).setAudio on) = onNext (exec i s) (fun t => (t.setAcc d a).setAudio on) ∧
    ∀ b : Byte, (∀ x, i ≠ .ldStVx x) → exec i (s.setSt b) = onNext (exec i s) (fun t => t.setSt b)

/-- A step of the machine never faults and is never refused (00_scope.md R11, 60_exceptions.md R104,
R107): every outcome of the spec is a state. -/
def Obligations.EveryStepAnswers : Prop :=
  ∀ s : State, ∃ t, step s = .next t

/-- Every step keeps the bounds of the reachable states (10_state.md R17, R19, R21; 20_memory.md R28;
60_exceptions.md R115), for every tick unit and either order. -/
def Obligations.StepKeepsInvariant : Prop :=
  (∀ (p : Params) (s t : State), s.Inv p → hostMove p s = .next t → t.Inv p) ∧
  ∀ s t : State, s.Inv params → step s = .next t → t.Inv params

/-- Every step keeps what holds during a key wait (60_exceptions.md R121; the spec's decision D16). -/
def Obligations.StepKeepsWaitInvariant : Prop :=
  ∀ s t : State, s.WaitInv params → step s = .next t → t.WaitInv params

/-- The reset state meets both invariants, whatever the font, the tick unit and the order (10_state.md R26;
its values are the spec's choices D5 and D19, log entry 2). -/
def Obligations.ResetMeetsInvariants : Prop :=
  (∀ (font : Font) (p : Params), (State.initialize font).Inv p ∧ (State.initialize font).WaitInv p) ∧
  ∀ p : Params, State.reset.Inv p ∧ State.reset.WaitInv p

/-! ## Reset, loading and the end of a run -/

/-- The reset state (10_state.md R26, 70_reset_and_hazards.md R131), whatever `FONT` is: the font and zeros
in memory and `pc` at 0x200; the other values are the spec's choices D5 and D19 (log entry 2). `State.reset`
takes the spec's default font (log entry 3). -/
def Obligations.ResetValues : Prop :=
  State.reset = State.initialize defaultFont ∧
  ∀ font : Font,
    (State.initialize font).pc = 0x200#16 ∧
    (∀ k (h : k < 80), (State.initialize font).mem.read k = font[k]) ∧
    (∀ a, 0x50 ≤ a → (State.initialize font).mem.read a = 0x00#8) ∧
    (∀ i, (State.initialize font).reg i = 0x00#8) ∧ (State.initialize font).index = 0x0000#16 ∧
    (State.initialize font).stack = [] ∧ (∀ r, Frame.row (State.initialize font).fb r = 0x0#64) ∧
    (State.initialize font).dt = 0x00#8 ∧ (State.initialize font).st = 0x00#8 ∧
    (State.initialize font).audioOn = false ∧ (State.initialize font).run = .running ∧
    (State.initialize font).accD = 0 ∧ (State.initialize font).accT = 0

/-- `load_program` (70_reset_and_hazards.md R132): up to 3584 bytes are copied to 0x200 on and `pc` is set
to 0x200; a longer program fails with `ProgramTooLarge` (the spec's decision D31). -/
def Obligations.LoadProgramCopies : Prop :=
  ∀ (b : List Byte) (s : State),
    (b.length ≤ 3584 →
      ∃ t, loadProgram b s = .ok t ∧ t.pc = 0x200#16 ∧
        (∀ k (h : k < b.length), t.mem.read (0x200 + k) = b[k]) ∧
        (∀ a, (a < 0x200 ∨ 0x200 + b.length ≤ a) → t.mem.read a = s.mem.read a) ∧
        t.mem.font = s.mem.font ∧ (s.mem.wf → t.mem.wf) ∧ t = { s with mem := t.mem, pc := t.pc }) ∧
    (b.length > 3584 → loadProgram b s = .error .programTooLarge)

/-- From an idle state every step stays idle and changes only the accumulators, and where a
timer tick is due what that tick changes: the timers, the audio level and what the audio sink receives
(70_reset_and_hazards.md R142, which infers it from R70; the spec's decision D30). -/
def Obligations.IdleStaysIdle : Prop :=
  ∀ s t : State, s.idle → step s = .next t →
    t.idle ∧ (t = { s with accD := t.accD, accT := t.accT } ∨
      t = { timerTick s with accD := t.accD, accT := t.accT })
end

