-- ==== Sys2Proof/Laws/Decode.lean ====
section
/-! SUPPORT. The fields of a word written as a concatenation (30_encoding.md R42), for the three layouts,
and a word put together again from its fields or its bytes. -/

namespace Sys2Proof

variable (f x y n : Nibble) (nn : Byte) (nnn : Addr)

@[simp] theorem fieldFamily_xyn : fieldFamily (f ++ x ++ y ++ n) = f := by
  apply BitVec.eq_of_getLsbD_eq
  intro i hi
  simp only [fieldFamily, BitVec.getLsbD_extractLsb']
  rw [BitVec.getLsbD_append, BitVec.getLsbD_append, BitVec.getLsbD_append]
  interval_cases i <;> rfl

@[simp] theorem fieldX_xyn : fieldX (f ++ x ++ y ++ n) = x := by
  apply BitVec.eq_of_getLsbD_eq
  intro i hi
  simp only [fieldX, BitVec.getLsbD_extractLsb']
  rw [BitVec.getLsbD_append, BitVec.getLsbD_append, BitVec.getLsbD_append]
  interval_cases i <;> rfl

@[simp] theorem fieldY_xyn : fieldY (f ++ x ++ y ++ n) = y := by
  apply BitVec.eq_of_getLsbD_eq
  intro i hi
  simp only [fieldY, BitVec.getLsbD_extractLsb']
  rw [BitVec.getLsbD_append, BitVec.getLsbD_append, BitVec.getLsbD_append]
  interval_cases i <;> rfl

@[simp] theorem fieldN_xyn : fieldN (f ++ x ++ y ++ n) = n := by
  apply BitVec.eq_of_getLsbD_eq
  intro i hi
  simp only [fieldN, BitVec.getLsbD_extractLsb']
  rw [BitVec.getLsbD_append, BitVec.getLsbD_append, BitVec.getLsbD_append]
  interval_cases i <;> rfl

@[simp] theorem fieldFamily_xnn : fieldFamily (f ++ x ++ nn) = f := by
  apply BitVec.eq_of_getLsbD_eq
  intro i hi
  simp only [fieldFamily, BitVec.getLsbD_extractLsb']
  rw [BitVec.getLsbD_append, BitVec.getLsbD_append]
  interval_cases i <;> rfl

@[simp] theorem fieldX_xnn : fieldX (f ++ x ++ nn) = x := by
  apply BitVec.eq_of_getLsbD_eq
  intro i hi
  simp only [fieldX, BitVec.getLsbD_extractLsb']
  rw [BitVec.getLsbD_append, BitVec.getLsbD_append]
  interval_cases i <;> rfl

@[simp] theorem fieldNN_xnn : fieldNN (f ++ x ++ nn) = nn := by
  apply BitVec.eq_of_getLsbD_eq
  intro i hi
  simp only [fieldNN, BitVec.getLsbD_extractLsb']
  rw [BitVec.getLsbD_append, BitVec.getLsbD_append]
  interval_cases i <;> rfl

@[simp] theorem fieldFamily_nnn : fieldFamily (f ++ nnn) = f := by
  apply BitVec.eq_of_getLsbD_eq
  intro i hi
  simp only [fieldFamily, BitVec.getLsbD_extractLsb']
  rw [BitVec.getLsbD_append]
  interval_cases i <;> rfl

@[simp] theorem fieldNNN_nnn : fieldNNN (f ++ nnn) = nnn := by
  apply BitVec.eq_of_getLsbD_eq
  intro i hi
  simp only [fieldNNN, BitVec.getLsbD_extractLsb']
  rw [BitVec.getLsbD_append]
  interval_cases i <;> rfl

/-- A word is its four nibbles. -/
theorem word_eq_xyn (w : Word) : w = fieldFamily w ++ fieldX w ++ fieldY w ++ fieldN w := by
  apply BitVec.eq_of_getLsbD_eq
  intro i hi
  have : i < 16 := hi
  rw [BitVec.getLsbD_append, BitVec.getLsbD_append, BitVec.getLsbD_append]
  simp only [fieldFamily, fieldX, fieldY, fieldN, BitVec.getLsbD_extractLsb']
  interval_cases i <;> rfl

/-- A word is its family, its `x` and its low byte. -/
theorem word_eq_xnn (w : Word) : w = fieldFamily w ++ fieldX w ++ fieldNN w := by
  apply BitVec.eq_of_getLsbD_eq
  intro i hi
  have : i < 16 := hi
  rw [BitVec.getLsbD_append, BitVec.getLsbD_append]
  simp only [fieldFamily, fieldX, fieldNN, BitVec.getLsbD_extractLsb']
  interval_cases i <;> rfl

/-- A word is its family and its low 12 bits. -/
theorem word_eq_nnn (w : Word) : w = fieldFamily w ++ fieldNNN w := by
  apply BitVec.eq_of_getLsbD_eq
  intro i hi
  have : i < 16 := hi
  rw [BitVec.getLsbD_append]
  simp only [fieldFamily, fieldNNN, BitVec.getLsbD_extractLsb']
  interval_cases i <;> rfl

/-- The two bytes of a word, put together again (20_memory.md R27). -/
theorem wordOfBytes_bytes (w : Word) : wordOfBytes (w.extractLsb' 8 8) (w.extractLsb' 0 8) = w := by
  apply BitVec.eq_of_getLsbD_eq
  intro i hi
  have : i < 16 := hi
  rw [wordOfBytes, BitVec.getLsbD_append]
  simp only [BitVec.getLsbD_extractLsb']
  interval_cases i <;> rfl

/-- Decoding from bytes reads the word they hold, and leaves the bytes after it. -/
theorem decodeBytes_bytesOfWord (w : Word) (rest : List Byte) :
    decodeBytes (bytesOfWord w ++ rest) =
      match decode w with
      | .ok i => .ok (i, rest)
      | .error r => .error r := by
  cases h : decode w <;>
    simp [bytesOfWord, decodeBytes, wordOfBytes_bytes, h]

end Sys2Proof
end

