-- ==== Sys2Proof/Laws/State.lean ====
section
/-! SUPPORT. Each update of the state, field by field: what it writes, and what it leaves. -/

namespace Sys2Proof.Machine

variable (s : State)

/-! `State.setReg` -/

@[simp] theorem State.setReg_v (i : Nibble) (b : Byte) : (s.setReg i b).v = s.v.set i.toNat b i.isLt := rfl
@[simp] theorem State.setReg_index (i : Nibble) (b : Byte) : (s.setReg i b).index = s.index := rfl
@[simp] theorem State.setReg_pc (i : Nibble) (b : Byte) : (s.setReg i b).pc = s.pc := rfl
@[simp] theorem State.setReg_stack (i : Nibble) (b : Byte) : (s.setReg i b).stack = s.stack := rfl
@[simp] theorem State.setReg_mem (i : Nibble) (b : Byte) : (s.setReg i b).mem = s.mem := rfl
@[simp] theorem State.setReg_fb (i : Nibble) (b : Byte) : (s.setReg i b).fb = s.fb := rfl
@[simp] theorem State.setReg_dt (i : Nibble) (b : Byte) : (s.setReg i b).dt = s.dt := rfl
@[simp] theorem State.setReg_st (i : Nibble) (b : Byte) : (s.setReg i b).st = s.st := rfl
@[simp] theorem State.setReg_audioOn (i : Nibble) (b : Byte) : (s.setReg i b).audioOn = s.audioOn := rfl
@[simp] theorem State.setReg_run (i : Nibble) (b : Byte) : (s.setReg i b).run = s.run := rfl
@[simp] theorem State.setReg_accD (i : Nibble) (b : Byte) : (s.setReg i b).accD = s.accD := rfl
@[simp] theorem State.setReg_accT (i : Nibble) (b : Byte) : (s.setReg i b).accT = s.accT := rfl
@[simp] theorem State.setReg_keyInputs (i : Nibble) (b : Byte) : (s.setReg i b).keyInputs = s.keyInputs := rfl
@[simp] theorem State.setReg_keyQueries (i : Nibble) (b : Byte) : (s.setReg i b).keyQueries = s.keyQueries :=
  rfl
@[simp] theorem State.setReg_randomInputs (i : Nibble) (b : Byte) : (s.setReg i b).randomInputs = s.randomInputs :=
  rfl
@[simp] theorem State.setReg_randomDraws (i : Nibble) (b : Byte) : (s.setReg i b).randomDraws = s.randomDraws :=
  rfl
@[simp] theorem State.setReg_hostLog (i : Nibble) (b : Byte) : (s.setReg i b).hostLog = s.hostLog := rfl

/-! `State.setIndex` -/

@[simp] theorem State.setIndex_v (w : Word) : (s.setIndex w).v = s.v := rfl
@[simp] theorem State.setIndex_index (w : Word) : (s.setIndex w).index = w := rfl
@[simp] theorem State.setIndex_pc (w : Word) : (s.setIndex w).pc = s.pc := rfl
@[simp] theorem State.setIndex_stack (w : Word) : (s.setIndex w).stack = s.stack := rfl
@[simp] theorem State.setIndex_mem (w : Word) : (s.setIndex w).mem = s.mem := rfl
@[simp] theorem State.setIndex_fb (w : Word) : (s.setIndex w).fb = s.fb := rfl
@[simp] theorem State.setIndex_dt (w : Word) : (s.setIndex w).dt = s.dt := rfl
@[simp] theorem State.setIndex_st (w : Word) : (s.setIndex w).st = s.st := rfl
@[simp] theorem State.setIndex_audioOn (w : Word) : (s.setIndex w).audioOn = s.audioOn := rfl
@[simp] theorem State.setIndex_run (w : Word) : (s.setIndex w).run = s.run := rfl
@[simp] theorem State.setIndex_accD (w : Word) : (s.setIndex w).accD = s.accD := rfl
@[simp] theorem State.setIndex_accT (w : Word) : (s.setIndex w).accT = s.accT := rfl
@[simp] theorem State.setIndex_keyInputs (w : Word) : (s.setIndex w).keyInputs = s.keyInputs := rfl
@[simp] theorem State.setIndex_keyQueries (w : Word) : (s.setIndex w).keyQueries = s.keyQueries := rfl
@[simp] theorem State.setIndex_randomInputs (w : Word) : (s.setIndex w).randomInputs = s.randomInputs := rfl
@[simp] theorem State.setIndex_randomDraws (w : Word) : (s.setIndex w).randomDraws = s.randomDraws := rfl
@[simp] theorem State.setIndex_hostLog (w : Word) : (s.setIndex w).hostLog = s.hostLog := rfl

/-! `State.setPc` -/

@[simp] theorem State.setPc_v (w : Word) : (s.setPc w).v = s.v := rfl
@[simp] theorem State.setPc_index (w : Word) : (s.setPc w).index = s.index := rfl
@[simp] theorem State.setPc_pc (w : Word) : (s.setPc w).pc = w := rfl
@[simp] theorem State.setPc_stack (w : Word) : (s.setPc w).stack = s.stack := rfl
@[simp] theorem State.setPc_mem (w : Word) : (s.setPc w).mem = s.mem := rfl
@[simp] theorem State.setPc_fb (w : Word) : (s.setPc w).fb = s.fb := rfl
@[simp] theorem State.setPc_dt (w : Word) : (s.setPc w).dt = s.dt := rfl
@[simp] theorem State.setPc_st (w : Word) : (s.setPc w).st = s.st := rfl
@[simp] theorem State.setPc_audioOn (w : Word) : (s.setPc w).audioOn = s.audioOn := rfl
@[simp] theorem State.setPc_run (w : Word) : (s.setPc w).run = s.run := rfl
@[simp] theorem State.setPc_accD (w : Word) : (s.setPc w).accD = s.accD := rfl
@[simp] theorem State.setPc_accT (w : Word) : (s.setPc w).accT = s.accT := rfl
@[simp] theorem State.setPc_keyInputs (w : Word) : (s.setPc w).keyInputs = s.keyInputs := rfl
@[simp] theorem State.setPc_keyQueries (w : Word) : (s.setPc w).keyQueries = s.keyQueries := rfl
@[simp] theorem State.setPc_randomInputs (w : Word) : (s.setPc w).randomInputs = s.randomInputs := rfl
@[simp] theorem State.setPc_randomDraws (w : Word) : (s.setPc w).randomDraws = s.randomDraws := rfl
@[simp] theorem State.setPc_hostLog (w : Word) : (s.setPc w).hostLog = s.hostLog := rfl

/-! `State.setStack` -/

@[simp] theorem State.setStack_v (l : List Word) : (s.setStack l).v = s.v := rfl
@[simp] theorem State.setStack_index (l : List Word) : (s.setStack l).index = s.index := rfl
@[simp] theorem State.setStack_pc (l : List Word) : (s.setStack l).pc = s.pc := rfl
@[simp] theorem State.setStack_stack (l : List Word) : (s.setStack l).stack = l := rfl
@[simp] theorem State.setStack_mem (l : List Word) : (s.setStack l).mem = s.mem := rfl
@[simp] theorem State.setStack_fb (l : List Word) : (s.setStack l).fb = s.fb := rfl
@[simp] theorem State.setStack_dt (l : List Word) : (s.setStack l).dt = s.dt := rfl
@[simp] theorem State.setStack_st (l : List Word) : (s.setStack l).st = s.st := rfl
@[simp] theorem State.setStack_audioOn (l : List Word) : (s.setStack l).audioOn = s.audioOn := rfl
@[simp] theorem State.setStack_run (l : List Word) : (s.setStack l).run = s.run := rfl
@[simp] theorem State.setStack_accD (l : List Word) : (s.setStack l).accD = s.accD := rfl
@[simp] theorem State.setStack_accT (l : List Word) : (s.setStack l).accT = s.accT := rfl
@[simp] theorem State.setStack_keyInputs (l : List Word) : (s.setStack l).keyInputs = s.keyInputs := rfl
@[simp] theorem State.setStack_keyQueries (l : List Word) : (s.setStack l).keyQueries = s.keyQueries := rfl
@[simp] theorem State.setStack_randomInputs (l : List Word) : (s.setStack l).randomInputs = s.randomInputs :=
  rfl
@[simp] theorem State.setStack_randomDraws (l : List Word) : (s.setStack l).randomDraws = s.randomDraws := rfl
@[simp] theorem State.setStack_hostLog (l : List Word) : (s.setStack l).hostLog = s.hostLog := rfl

/-! `State.setMem` -/

@[simp] theorem State.setMem_v (m : Memory) : (s.setMem m).v = s.v := rfl
@[simp] theorem State.setMem_index (m : Memory) : (s.setMem m).index = s.index := rfl
@[simp] theorem State.setMem_pc (m : Memory) : (s.setMem m).pc = s.pc := rfl
@[simp] theorem State.setMem_stack (m : Memory) : (s.setMem m).stack = s.stack := rfl
@[simp] theorem State.setMem_mem (m : Memory) : (s.setMem m).mem = m := rfl
@[simp] theorem State.setMem_fb (m : Memory) : (s.setMem m).fb = s.fb := rfl
@[simp] theorem State.setMem_dt (m : Memory) : (s.setMem m).dt = s.dt := rfl
@[simp] theorem State.setMem_st (m : Memory) : (s.setMem m).st = s.st := rfl
@[simp] theorem State.setMem_audioOn (m : Memory) : (s.setMem m).audioOn = s.audioOn := rfl
@[simp] theorem State.setMem_run (m : Memory) : (s.setMem m).run = s.run := rfl
@[simp] theorem State.setMem_accD (m : Memory) : (s.setMem m).accD = s.accD := rfl
@[simp] theorem State.setMem_accT (m : Memory) : (s.setMem m).accT = s.accT := rfl
@[simp] theorem State.setMem_keyInputs (m : Memory) : (s.setMem m).keyInputs = s.keyInputs := rfl
@[simp] theorem State.setMem_keyQueries (m : Memory) : (s.setMem m).keyQueries = s.keyQueries := rfl
@[simp] theorem State.setMem_randomInputs (m : Memory) : (s.setMem m).randomInputs = s.randomInputs := rfl
@[simp] theorem State.setMem_randomDraws (m : Memory) : (s.setMem m).randomDraws = s.randomDraws := rfl
@[simp] theorem State.setMem_hostLog (m : Memory) : (s.setMem m).hostLog = s.hostLog := rfl

/-! `State.setFb` -/

@[simp] theorem State.setFb_v (f : Frame) : (s.setFb f).v = s.v := rfl
@[simp] theorem State.setFb_index (f : Frame) : (s.setFb f).index = s.index := rfl
@[simp] theorem State.setFb_pc (f : Frame) : (s.setFb f).pc = s.pc := rfl
@[simp] theorem State.setFb_stack (f : Frame) : (s.setFb f).stack = s.stack := rfl
@[simp] theorem State.setFb_mem (f : Frame) : (s.setFb f).mem = s.mem := rfl
@[simp] theorem State.setFb_fb (f : Frame) : (s.setFb f).fb = f := rfl
@[simp] theorem State.setFb_dt (f : Frame) : (s.setFb f).dt = s.dt := rfl
@[simp] theorem State.setFb_st (f : Frame) : (s.setFb f).st = s.st := rfl
@[simp] theorem State.setFb_audioOn (f : Frame) : (s.setFb f).audioOn = s.audioOn := rfl
@[simp] theorem State.setFb_run (f : Frame) : (s.setFb f).run = s.run := rfl
@[simp] theorem State.setFb_accD (f : Frame) : (s.setFb f).accD = s.accD := rfl
@[simp] theorem State.setFb_accT (f : Frame) : (s.setFb f).accT = s.accT := rfl
@[simp] theorem State.setFb_keyInputs (f : Frame) : (s.setFb f).keyInputs = s.keyInputs := rfl
@[simp] theorem State.setFb_keyQueries (f : Frame) : (s.setFb f).keyQueries = s.keyQueries := rfl
@[simp] theorem State.setFb_randomInputs (f : Frame) : (s.setFb f).randomInputs = s.randomInputs := rfl
@[simp] theorem State.setFb_randomDraws (f : Frame) : (s.setFb f).randomDraws = s.randomDraws := rfl
@[simp] theorem State.setFb_hostLog (f : Frame) : (s.setFb f).hostLog = s.hostLog := rfl

/-! `State.setDt` -/

@[simp] theorem State.setDt_v (b : Byte) : (s.setDt b).v = s.v := rfl
@[simp] theorem State.setDt_index (b : Byte) : (s.setDt b).index = s.index := rfl
@[simp] theorem State.setDt_pc (b : Byte) : (s.setDt b).pc = s.pc := rfl
@[simp] theorem State.setDt_stack (b : Byte) : (s.setDt b).stack = s.stack := rfl
@[simp] theorem State.setDt_mem (b : Byte) : (s.setDt b).mem = s.mem := rfl
@[simp] theorem State.setDt_fb (b : Byte) : (s.setDt b).fb = s.fb := rfl
@[simp] theorem State.setDt_dt (b : Byte) : (s.setDt b).dt = b := rfl
@[simp] theorem State.setDt_st (b : Byte) : (s.setDt b).st = s.st := rfl
@[simp] theorem State.setDt_audioOn (b : Byte) : (s.setDt b).audioOn = s.audioOn := rfl
@[simp] theorem State.setDt_run (b : Byte) : (s.setDt b).run = s.run := rfl
@[simp] theorem State.setDt_accD (b : Byte) : (s.setDt b).accD = s.accD := rfl
@[simp] theorem State.setDt_accT (b : Byte) : (s.setDt b).accT = s.accT := rfl
@[simp] theorem State.setDt_keyInputs (b : Byte) : (s.setDt b).keyInputs = s.keyInputs := rfl
@[simp] theorem State.setDt_keyQueries (b : Byte) : (s.setDt b).keyQueries = s.keyQueries := rfl
@[simp] theorem State.setDt_randomInputs (b : Byte) : (s.setDt b).randomInputs = s.randomInputs := rfl
@[simp] theorem State.setDt_randomDraws (b : Byte) : (s.setDt b).randomDraws = s.randomDraws := rfl
@[simp] theorem State.setDt_hostLog (b : Byte) : (s.setDt b).hostLog = s.hostLog := rfl

/-! `State.setSt` -/

@[simp] theorem State.setSt_v (b : Byte) : (s.setSt b).v = s.v := rfl
@[simp] theorem State.setSt_index (b : Byte) : (s.setSt b).index = s.index := rfl
@[simp] theorem State.setSt_pc (b : Byte) : (s.setSt b).pc = s.pc := rfl
@[simp] theorem State.setSt_stack (b : Byte) : (s.setSt b).stack = s.stack := rfl
@[simp] theorem State.setSt_mem (b : Byte) : (s.setSt b).mem = s.mem := rfl
@[simp] theorem State.setSt_fb (b : Byte) : (s.setSt b).fb = s.fb := rfl
@[simp] theorem State.setSt_dt (b : Byte) : (s.setSt b).dt = s.dt := rfl
@[simp] theorem State.setSt_st (b : Byte) : (s.setSt b).st = b := rfl
@[simp] theorem State.setSt_audioOn (b : Byte) : (s.setSt b).audioOn = s.audioOn := rfl
@[simp] theorem State.setSt_run (b : Byte) : (s.setSt b).run = s.run := rfl
@[simp] theorem State.setSt_accD (b : Byte) : (s.setSt b).accD = s.accD := rfl
@[simp] theorem State.setSt_accT (b : Byte) : (s.setSt b).accT = s.accT := rfl
@[simp] theorem State.setSt_keyInputs (b : Byte) : (s.setSt b).keyInputs = s.keyInputs := rfl
@[simp] theorem State.setSt_keyQueries (b : Byte) : (s.setSt b).keyQueries = s.keyQueries := rfl
@[simp] theorem State.setSt_randomInputs (b : Byte) : (s.setSt b).randomInputs = s.randomInputs := rfl
@[simp] theorem State.setSt_randomDraws (b : Byte) : (s.setSt b).randomDraws = s.randomDraws := rfl
@[simp] theorem State.setSt_hostLog (b : Byte) : (s.setSt b).hostLog = s.hostLog := rfl

/-! `State.setAudio` -/

@[simp] theorem State.setAudio_v (on : Bool) : (s.setAudio on).v = s.v := rfl
@[simp] theorem State.setAudio_index (on : Bool) : (s.setAudio on).index = s.index := rfl
@[simp] theorem State.setAudio_pc (on : Bool) : (s.setAudio on).pc = s.pc := rfl
@[simp] theorem State.setAudio_stack (on : Bool) : (s.setAudio on).stack = s.stack := rfl
@[simp] theorem State.setAudio_mem (on : Bool) : (s.setAudio on).mem = s.mem := rfl
@[simp] theorem State.setAudio_fb (on : Bool) : (s.setAudio on).fb = s.fb := rfl
@[simp] theorem State.setAudio_dt (on : Bool) : (s.setAudio on).dt = s.dt := rfl
@[simp] theorem State.setAudio_st (on : Bool) : (s.setAudio on).st = s.st := rfl
@[simp] theorem State.setAudio_audioOn (on : Bool) : (s.setAudio on).audioOn = on := rfl
@[simp] theorem State.setAudio_run (on : Bool) : (s.setAudio on).run = s.run := rfl
@[simp] theorem State.setAudio_accD (on : Bool) : (s.setAudio on).accD = s.accD := rfl
@[simp] theorem State.setAudio_accT (on : Bool) : (s.setAudio on).accT = s.accT := rfl
@[simp] theorem State.setAudio_keyInputs (on : Bool) : (s.setAudio on).keyInputs = s.keyInputs := rfl
@[simp] theorem State.setAudio_keyQueries (on : Bool) : (s.setAudio on).keyQueries = s.keyQueries := rfl
@[simp] theorem State.setAudio_randomInputs (on : Bool) : (s.setAudio on).randomInputs = s.randomInputs := rfl
@[simp] theorem State.setAudio_randomDraws (on : Bool) : (s.setAudio on).randomDraws = s.randomDraws := rfl
@[simp] theorem State.setAudio_hostLog (on : Bool) : (s.setAudio on).hostLog = s.hostLog := rfl

/-! `State.setRun` -/

@[simp] theorem State.setRun_v (r : Run) : (s.setRun r).v = s.v := rfl
@[simp] theorem State.setRun_index (r : Run) : (s.setRun r).index = s.index := rfl
@[simp] theorem State.setRun_pc (r : Run) : (s.setRun r).pc = s.pc := rfl
@[simp] theorem State.setRun_stack (r : Run) : (s.setRun r).stack = s.stack := rfl
@[simp] theorem State.setRun_mem (r : Run) : (s.setRun r).mem = s.mem := rfl
@[simp] theorem State.setRun_fb (r : Run) : (s.setRun r).fb = s.fb := rfl
@[simp] theorem State.setRun_dt (r : Run) : (s.setRun r).dt = s.dt := rfl
@[simp] theorem State.setRun_st (r : Run) : (s.setRun r).st = s.st := rfl
@[simp] theorem State.setRun_audioOn (r : Run) : (s.setRun r).audioOn = s.audioOn := rfl
@[simp] theorem State.setRun_run (r : Run) : (s.setRun r).run = r := rfl
@[simp] theorem State.setRun_accD (r : Run) : (s.setRun r).accD = s.accD := rfl
@[simp] theorem State.setRun_accT (r : Run) : (s.setRun r).accT = s.accT := rfl
@[simp] theorem State.setRun_keyInputs (r : Run) : (s.setRun r).keyInputs = s.keyInputs := rfl
@[simp] theorem State.setRun_keyQueries (r : Run) : (s.setRun r).keyQueries = s.keyQueries := rfl
@[simp] theorem State.setRun_randomInputs (r : Run) : (s.setRun r).randomInputs = s.randomInputs := rfl
@[simp] theorem State.setRun_randomDraws (r : Run) : (s.setRun r).randomDraws = s.randomDraws := rfl
@[simp] theorem State.setRun_hostLog (r : Run) : (s.setRun r).hostLog = s.hostLog := rfl

/-! `State.setAcc` -/

@[simp] theorem State.setAcc_v (d t : Nat) : (s.setAcc d t).v = s.v := rfl
@[simp] theorem State.setAcc_index (d t : Nat) : (s.setAcc d t).index = s.index := rfl
@[simp] theorem State.setAcc_pc (d t : Nat) : (s.setAcc d t).pc = s.pc := rfl
@[simp] theorem State.setAcc_stack (d t : Nat) : (s.setAcc d t).stack = s.stack := rfl
@[simp] theorem State.setAcc_mem (d t : Nat) : (s.setAcc d t).mem = s.mem := rfl
@[simp] theorem State.setAcc_fb (d t : Nat) : (s.setAcc d t).fb = s.fb := rfl
@[simp] theorem State.setAcc_dt (d t : Nat) : (s.setAcc d t).dt = s.dt := rfl
@[simp] theorem State.setAcc_st (d t : Nat) : (s.setAcc d t).st = s.st := rfl
@[simp] theorem State.setAcc_audioOn (d t : Nat) : (s.setAcc d t).audioOn = s.audioOn := rfl
@[simp] theorem State.setAcc_run (d t : Nat) : (s.setAcc d t).run = s.run := rfl
@[simp] theorem State.setAcc_accD (d t : Nat) : (s.setAcc d t).accD = d := rfl
@[simp] theorem State.setAcc_accT (d t : Nat) : (s.setAcc d t).accT = t := rfl
@[simp] theorem State.setAcc_keyInputs (d t : Nat) : (s.setAcc d t).keyInputs = s.keyInputs := rfl
@[simp] theorem State.setAcc_keyQueries (d t : Nat) : (s.setAcc d t).keyQueries = s.keyQueries := rfl
@[simp] theorem State.setAcc_randomInputs (d t : Nat) : (s.setAcc d t).randomInputs = s.randomInputs := rfl
@[simp] theorem State.setAcc_randomDraws (d t : Nat) : (s.setAcc d t).randomDraws = s.randomDraws := rfl
@[simp] theorem State.setAcc_hostLog (d t : Nat) : (s.setAcc d t).hostLog = s.hostLog := rfl

/-! `State.logEvent` -/

@[simp] theorem State.logEvent_v (e : HostEvent) : (s.logEvent e).v = s.v := rfl
@[simp] theorem State.logEvent_index (e : HostEvent) : (s.logEvent e).index = s.index := rfl
@[simp] theorem State.logEvent_pc (e : HostEvent) : (s.logEvent e).pc = s.pc := rfl
@[simp] theorem State.logEvent_stack (e : HostEvent) : (s.logEvent e).stack = s.stack := rfl
@[simp] theorem State.logEvent_mem (e : HostEvent) : (s.logEvent e).mem = s.mem := rfl
@[simp] theorem State.logEvent_fb (e : HostEvent) : (s.logEvent e).fb = s.fb := rfl
@[simp] theorem State.logEvent_dt (e : HostEvent) : (s.logEvent e).dt = s.dt := rfl
@[simp] theorem State.logEvent_st (e : HostEvent) : (s.logEvent e).st = s.st := rfl
@[simp] theorem State.logEvent_audioOn (e : HostEvent) : (s.logEvent e).audioOn = s.audioOn := rfl
@[simp] theorem State.logEvent_run (e : HostEvent) : (s.logEvent e).run = s.run := rfl
@[simp] theorem State.logEvent_accD (e : HostEvent) : (s.logEvent e).accD = s.accD := rfl
@[simp] theorem State.logEvent_accT (e : HostEvent) : (s.logEvent e).accT = s.accT := rfl
@[simp] theorem State.logEvent_keyInputs (e : HostEvent) : (s.logEvent e).keyInputs = s.keyInputs := rfl
@[simp] theorem State.logEvent_keyQueries (e : HostEvent) : (s.logEvent e).keyQueries = s.keyQueries := rfl
@[simp] theorem State.logEvent_randomInputs (e : HostEvent) : (s.logEvent e).randomInputs = s.randomInputs :=
  rfl
@[simp] theorem State.logEvent_randomDraws (e : HostEvent) : (s.logEvent e).randomDraws = s.randomDraws := rfl
@[simp] theorem State.logEvent_hostLog (e : HostEvent) : (s.logEvent e).hostLog = e :: s.hostLog := rfl

/-! `State.askKey` -/

@[simp] theorem State.askKey_v : s.askKey.v = s.v := rfl
@[simp] theorem State.askKey_index : s.askKey.index = s.index := rfl
@[simp] theorem State.askKey_pc : s.askKey.pc = s.pc := rfl
@[simp] theorem State.askKey_stack : s.askKey.stack = s.stack := rfl
@[simp] theorem State.askKey_mem : s.askKey.mem = s.mem := rfl
@[simp] theorem State.askKey_fb : s.askKey.fb = s.fb := rfl
@[simp] theorem State.askKey_dt : s.askKey.dt = s.dt := rfl
@[simp] theorem State.askKey_st : s.askKey.st = s.st := rfl
@[simp] theorem State.askKey_audioOn : s.askKey.audioOn = s.audioOn := rfl
@[simp] theorem State.askKey_run : s.askKey.run = s.run := rfl
@[simp] theorem State.askKey_accD : s.askKey.accD = s.accD := rfl
@[simp] theorem State.askKey_accT : s.askKey.accT = s.accT := rfl
@[simp] theorem State.askKey_keyInputs : s.askKey.keyInputs = s.keyInputs.tail := rfl
@[simp] theorem State.askKey_keyQueries : s.askKey.keyQueries = s.keyQueries + 1 := rfl
@[simp] theorem State.askKey_randomInputs : s.askKey.randomInputs = s.randomInputs := rfl
@[simp] theorem State.askKey_randomDraws : s.askKey.randomDraws = s.randomDraws := rfl
@[simp] theorem State.askKey_hostLog : s.askKey.hostLog = .keyQuery s.keyAnswer :: s.hostLog := rfl

/-! `State.drawRandom` -/

@[simp] theorem State.drawRandom_v : s.drawRandom.v = s.v := rfl
@[simp] theorem State.drawRandom_index : s.drawRandom.index = s.index := rfl
@[simp] theorem State.drawRandom_pc : s.drawRandom.pc = s.pc := rfl
@[simp] theorem State.drawRandom_stack : s.drawRandom.stack = s.stack := rfl
@[simp] theorem State.drawRandom_mem : s.drawRandom.mem = s.mem := rfl
@[simp] theorem State.drawRandom_fb : s.drawRandom.fb = s.fb := rfl
@[simp] theorem State.drawRandom_dt : s.drawRandom.dt = s.dt := rfl
@[simp] theorem State.drawRandom_st : s.drawRandom.st = s.st := rfl
@[simp] theorem State.drawRandom_audioOn : s.drawRandom.audioOn = s.audioOn := rfl
@[simp] theorem State.drawRandom_run : s.drawRandom.run = s.run := rfl
@[simp] theorem State.drawRandom_accD : s.drawRandom.accD = s.accD := rfl
@[simp] theorem State.drawRandom_accT : s.drawRandom.accT = s.accT := rfl
@[simp] theorem State.drawRandom_keyInputs : s.drawRandom.keyInputs = s.keyInputs := rfl
@[simp] theorem State.drawRandom_keyQueries : s.drawRandom.keyQueries = s.keyQueries := rfl
@[simp] theorem State.drawRandom_randomInputs : s.drawRandom.randomInputs = s.randomInputs.tail := rfl
@[simp] theorem State.drawRandom_randomDraws : s.drawRandom.randomDraws = s.randomDraws + 1 := rfl
@[simp] theorem State.drawRandom_hostLog : s.drawRandom.hostLog = .randomDraw s.randomByte :: s.hostLog := rfl

end Sys2Proof.Machine
end

