-- ==== Sys2Proof/Laws/Display.lean ====
section
/-! SUPPORT. The framebuffer's rows and pixels, and the row mask of a sprite byte (41_display.md). -/

namespace Sys2Proof.Machine

/-- A row after one row is written: rows are numbered modulo 32. -/
theorem Frame.row_setRow (f : Frame) (r k : Nat) (m : PixelRow) :
    Frame.row (Frame.setRow f r m) k = if k % 32 = r % 32 then m else Frame.row f k := by
  unfold Frame.row Frame.setRow
  by_cases h : k % 32 = r % 32
  · simp [h]
  · simp [h, Vector.getElem_set_ne, Ne.symm h]

@[simp] theorem Frame.row_clearFrame (r : Nat) : Frame.row clearFrame r = 0x0#64 := by
  simp [Frame.row, clearFrame]

/-- Two framebuffers with the same rows are the same. -/
theorem Frame.ext_row {f g : Frame} (h : ∀ r, r < 32 → Frame.row f r = Frame.row g r) : f = g := by
  apply Vector.ext
  intro r hr
  have := h r hr
  simpa [Frame.row, Nat.mod_eq_of_lt hr] using this

/-- A pixel is a bit of its row, bit 63 the leftmost (10_state.md R22). -/
theorem Frame.pixel_eq (f : Frame) (r c : Nat) : Frame.pixel f r c = (Frame.row f r).getLsbD (63 - c) := rfl

/-- Sprite bit `7 - j` lands at column `col + j`, and bits past column 63 are lost (R64). -/
theorem getLsbD_spriteMask (b : Byte) {col c : Nat} (hc : c < 64) :
    (spriteMask b col).getLsbD (63 - c) =
      (decide (col ≤ c ∧ c < col + 8) && b.getLsbD (7 - (c - col))) := by
  simp only [spriteMask, BitVec.getLsbD_ushiftRight, BitVec.getLsbD_shiftLeft, BitVec.getLsbD_setWidth]
  by_cases h : col ≤ c ∧ c < col + 8
  · have h1 : col + (63 - c) < 64 := by omega
    have h2 : ¬col + (63 - c) < 56 := by omega
    have h3 : col + (63 - c) - 56 = 7 - (c - col) := by omega
    have h4 : 7 - (c - col) < 64 := by omega
    simp only [h, h1, h2, h3, h4, and_self, decide_true, decide_false, Bool.not_false, Bool.true_and]
  · simp only [h, decide_false, Bool.false_and]
    by_cases h1 : col ≤ c
    · have h2 : col + (63 - c) < 56 := by omega
      simp only [h2, decide_true, Bool.not_true, Bool.and_false, Bool.false_and]
    · have h2 : ¬col + (63 - c) < 64 := by omega
      simp only [h2, decide_false, Bool.false_and]

end Sys2Proof.Machine
end

