-- ==== Sys2Proof/Laws/Memory.lean ====
section
/-! SUPPORT. The memory bank: a read after a write, and that every operation keeps the canonical form. -/

namespace Sys2Proof.Machine

/-! ## The font a bank was initialized with -/

@[simp] theorem Memory.font_erase (m : Memory) (a : Nat) : (m.erase a).font = m.font := rfl
@[simp] theorem Memory.font_insert (m : Memory) (a : Nat) (b : Byte) : (m.insert a b).font = m.font := rfl

/-- No write changes `FONT`. -/
@[simp] theorem Memory.font_write (m : Memory) (a : Nat) (b : Byte) : (m.write a b).font = m.font := by
  unfold Memory.write
  split <;> rfl

@[simp] theorem Memory.font_writeBytes (m : Memory) (a : Nat) (bs : List Byte) :
    (m.writeBytes a bs).font = m.font := by
  induction bs generalizing m a with
  | nil => rfl
  | cons b rest ih => rw [Memory.writeBytes, ih, Memory.font_write]

/-- Past the font `initialize()` leaves zeros. -/
theorem resetByte_of_ge (font : Font) {a : Nat} (h : 80 ≤ a) : resetByte font a = 0x00#8 := by
  simp [resetByte, h]

/-- In the font region `initialize()` leaves the font. -/
theorem resetByte_of_lt (font : Font) {a : Nat} (h : a < 80) : resetByte font a = font[a] := by
  simp [resetByte, h]

/-! ## Reading after writing -/

/-- The first entry of an address decides. -/
theorem lookup_cons_cell (c : Host.Cell) (rest : List Host.Cell) (k : Nat) :
    (c :: rest).lookup k = if k = c.1 then some c.2 else rest.lookup k := by
  obtain ⟨j, b⟩ := c
  rw [List.lookup_cons]
  by_cases hk : k = j
  · simp [hk]
  · simp [hk, beq_false_of_ne hk]

theorem lookup_insertCell (l : List Host.Cell) (a : Nat) (b : Byte) (k : Nat) (h : ∀ c ∈ l, c.1 ≠ a) :
    (insertCell a b l).lookup k = if k = a then some b else l.lookup k := by
  induction l with
  | nil => simp [insertCell, lookup_cons_cell]
  | cons c rest ih =>
    simp only [List.mem_cons, forall_eq_or_imp] at h
    by_cases hc : a < c.1
    · simp only [insertCell, hc, if_true, lookup_cons_cell]
    · simp only [insertCell, hc, if_false, lookup_cons_cell, ih h.2]
      by_cases hk : k = a
      · simp [hk, Ne.symm h.1]
      · simp [hk]

theorem lookup_filter_ne (l : List Host.Cell) (a k : Nat) :
    (l.filter (fun c => c.1 != a)).lookup k = if k = a then none else l.lookup k := by
  induction l with
  | nil => simp
  | cons c rest ih =>
    by_cases hc : c.1 = a
    · rw [List.filter_cons_of_neg (by simp [hc]), ih, lookup_cons_cell, hc]
      by_cases hk : k = a <;> simp [hk]
    · rw [List.filter_cons_of_pos (by simp [hc]), lookup_cons_cell, lookup_cons_cell, ih]
      by_cases hk : k = a
      · simp [hk, Ne.symm hc]
      · simp [hk]

theorem Memory.unlisted_erase (m : Memory) (a : Nat) : ∀ c ∈ (m.erase a).cells, c.1 ≠ a := by
  intro c hc
  simpa using (List.mem_filter.mp hc).2

/-- A read after a write of one byte (20_memory.md R32). -/
@[simp] theorem Memory.read_write (m : Memory) (a : Nat) (b : Byte) (k : Nat) :
    (m.write a b).read k = if k = a then b else m.read k := by
  unfold Memory.write
  split
  · subst b
    rw [Memory.read, Memory.erase, lookup_filter_ne]
    by_cases hk : k = a <;> simp [hk, Memory.read]
  · rw [Memory.read, Memory.insert, lookup_insertCell _ _ _ _ (Memory.unlisted_erase m a), Memory.erase,
      lookup_filter_ne]
    by_cases hk : k = a <;> simp [hk, Memory.read]

/-- A read before the bytes written. -/
theorem Memory.read_writeBytes_of_lt {m : Memory} {a k : Nat} {bs : List Byte} (h : k < a) :
    (m.writeBytes a bs).read k = m.read k := by
  induction bs generalizing m a with
  | nil => rfl
  | cons b rest ih =>
    simp only [Memory.writeBytes, ih (Nat.lt_succ_of_lt h), Memory.read_write, Nat.ne_of_lt h, if_false]

/-- A read behind the bytes written. -/
theorem Memory.read_writeBytes_of_ge {m : Memory} {a k : Nat} {bs : List Byte}
    (h : a + bs.length ≤ k) : (m.writeBytes a bs).read k = m.read k := by
  induction bs generalizing m a with
  | nil => rfl
  | cons b rest ih =>
    simp only [List.length_cons] at h
    have hk : k ≠ a := by omega
    rw [Memory.writeBytes, ih (by omega), Memory.read_write, if_neg hk]

/-- A read of the `j`-th byte written. -/
theorem Memory.read_writeBytes_getElem {m : Memory} {a : Nat} {bs : List Byte} {j : Nat}
    (h : j < bs.length) : (m.writeBytes a bs).read (a + j) = bs[j] := by
  induction bs generalizing m a j with
  | nil => simp at h
  | cons b rest ih =>
    cases j with
    | zero => simp [Memory.writeBytes, Memory.read_writeBytes_of_lt]
    | succ j =>
      have := ih (m := m.write a b) (a := a + 1) (j := j) (by simpa using h)
      simpa [Memory.writeBytes, Nat.add_assoc, Nat.add_comm 1 j] using this

@[simp] theorem Memory.length_readBytes (m : Memory) (a n : Nat) : (m.readBytes a n).length = n := by
  simp [Memory.readBytes]

@[simp] theorem Memory.getElem_readBytes (m : Memory) (a n k : Nat) (h : k < (m.readBytes a n).length) :
    (m.readBytes a n)[k] = m.read (a + k) := by
  simp [Memory.readBytes]

/-- Reading back what was written gives the bytes written. -/
theorem Memory.readBytes_writeBytes (m : Memory) (a : Nat) (bs : List Byte) :
    (m.writeBytes a bs).readBytes a bs.length = bs := by
  apply List.ext_getElem
  · simp
  · intro j h₁ h₂
    rw [Memory.getElem_readBytes, Memory.read_writeBytes_getElem h₂]

/-! ## The canonical form -/

theorem Memory.wf_nil (font : Font) : Memory.wf ⟨font, []⟩ := by simp [Memory.wf]

theorem mem_insertCell {l : List Host.Cell} {a : Nat} {b : Byte} {c : Host.Cell}
    (h : c ∈ insertCell a b l) : c = (a, b) ∨ c ∈ l := by
  induction l with
  | nil => simpa [insertCell] using h
  | cons d rest ih =>
    by_cases hk : a < d.1
    · simpa [insertCell, hk] using h
    · simp only [insertCell, hk, if_false, List.mem_cons] at h ⊢
      rcases h with h | h
      · exact .inr (.inl h)
      · exact (ih h).imp_right .inr

theorem pairwise_insertCell {l : List Host.Cell} {a : Nat} {b : Byte}
    (hs : l.Pairwise (fun c d => c.1 < d.1)) (hu : ∀ c ∈ l, c.1 ≠ a) :
    (insertCell a b l).Pairwise (fun c d => c.1 < d.1) := by
  induction l with
  | nil => simp [insertCell]
  | cons d rest ih =>
    simp only [List.mem_cons, forall_eq_or_imp] at hu
    obtain ⟨hd, hr⟩ := List.pairwise_cons.mp hs
    by_cases hk : a < d.1
    · simp only [insertCell, hk, if_true]
      refine List.pairwise_cons.mpr ⟨fun c hc => ?_, hs⟩
      rcases List.mem_cons.mp hc with rfl | hc
      · exact hk
      · exact Nat.lt_trans hk (hd c hc)
    · simp only [insertCell, hk, if_false]
      refine List.pairwise_cons.mpr ⟨fun c hc => ?_, ih hr hu.2⟩
      rcases mem_insertCell hc with rfl | hc
      · have := hu.1
        simp only
        omega
      · exact hd c hc

theorem Memory.wf_erase {m : Memory} (h : m.wf) (a : Nat) : (m.erase a).wf :=
  ⟨h.1.filter _, fun c hc => h.2 c (List.mem_filter.mp hc).1⟩

theorem Memory.wf_insert {m : Memory} {a : Nat} {b : Byte} (h : m.wf) (hu : ∀ c ∈ m.cells, c.1 ≠ a)
    (ha : a < Config.memSize) (hb : b ≠ resetByte m.font a) : (m.insert a b).wf := by
  refine ⟨pairwise_insertCell h.1 hu, fun c hc => ?_⟩
  rcases mem_insertCell hc with rfl | hc
  · exact ⟨ha, hb⟩
  · exact h.2 c hc

/-- Writing one byte within the bank keeps the canonical form. -/
theorem Memory.wf_write {m : Memory} {a : Nat} (h : m.wf) (ha : a < Config.memSize) (b : Byte) :
    (m.write a b).wf := by
  unfold Memory.write
  split
  · exact Memory.wf_erase h a
  · exact Memory.wf_insert (Memory.wf_erase h a) (Memory.unlisted_erase m a) ha ‹_›

/-- Writing bytes within the bank keeps the canonical form. -/
theorem Memory.wf_writeBytes {m : Memory} {a : Nat} {bs : List Byte} (h : m.wf)
    (ha : a + bs.length ≤ Config.memSize) : (m.writeBytes a bs).wf := by
  induction bs generalizing m a with
  | nil => exact h
  | cons b rest ih =>
    simp only [List.length_cons] at ha
    exact ih (Memory.wf_write h (by omega) b) (by omega)

/-- The memory `initialize()` leaves is canonical, whatever the font. -/
theorem State.initialize_mem_wf (font : Font) : (State.initialize font).mem.wf := Memory.wf_nil font

/-- The memory reset leaves is canonical. -/
theorem State.reset_mem_wf : State.reset.mem.wf := Memory.wf_nil defaultFont

/-! ## `State.store` -/

@[simp] theorem State.store_mem (s : State) (a : Nat) (bs : List Byte) :
    (s.store a bs).mem = s.mem.writeBytes a bs := rfl

/-- A store changes the memory bank and nothing else. -/
theorem State.store_frame (s : State) (a : Nat) (bs : List Byte) :
    s.store a bs = { s with mem := s.mem.writeBytes a bs } := rfl

/-- The range check of 20_memory.md R31: every address of the access is at most 0xFFF. -/
theorem inRange_iff (a n : Nat) : inRange a n = true ↔ n = 0 ∨ a + n ≤ 4096 := by
  simp [inRange]

end Sys2Proof.Machine
end

