-- ==== Sys2Proof/Laws/Registers.lean ====
section
/-! SUPPORT. The register file, and the flag-writing and block-writing updates of it. -/

namespace Sys2Proof.Machine

variable (s : State)

@[simp] theorem State.reg_setReg (i j : Nibble) (b : Byte) :
    (s.setReg i b).reg j = if j = i then b else s.reg j := by
  by_cases h : j = i
  · subst h; simp [State.reg]
  · have : i.toNat ≠ j.toNat := fun he => h (BitVec.eq_of_toNat_eq he).symm
    simp [State.reg, h, Vector.getElem_set_ne, this]

@[simp] theorem State.reg_setIndex (i : Nibble) (w : Word) : (s.setIndex w).reg i = s.reg i := rfl
@[simp] theorem State.reg_setPc (i : Nibble) (w : Word) : (s.setPc w).reg i = s.reg i := rfl
@[simp] theorem State.reg_setStack (i : Nibble) (l : List Word) : (s.setStack l).reg i = s.reg i := rfl
@[simp] theorem State.reg_setMem (i : Nibble) (m : Memory) : (s.setMem m).reg i = s.reg i := rfl
@[simp] theorem State.reg_store (i : Nibble) (a : Nat) (bs : List Byte) :
    (s.store a bs).reg i = s.reg i := rfl
@[simp] theorem State.reg_setFb (i : Nibble) (f : Frame) : (s.setFb f).reg i = s.reg i := rfl
@[simp] theorem State.reg_setDt (i : Nibble) (b : Byte) : (s.setDt b).reg i = s.reg i := rfl
@[simp] theorem State.reg_setSt (i : Nibble) (b : Byte) : (s.setSt b).reg i = s.reg i := rfl
@[simp] theorem State.reg_setAudio (i : Nibble) (on : Bool) : (s.setAudio on).reg i = s.reg i := rfl
@[simp] theorem State.reg_setRun (i : Nibble) (r : Run) : (s.setRun r).reg i = s.reg i := rfl
@[simp] theorem State.reg_setAcc (i : Nibble) (d t : Nat) : (s.setAcc d t).reg i = s.reg i := rfl
@[simp] theorem State.reg_logEvent (i : Nibble) (e : HostEvent) : (s.logEvent e).reg i = s.reg i := rfl
@[simp] theorem State.reg_emitRedraw (i : Nibble) : s.emitRedraw.reg i = s.reg i := rfl
@[simp] theorem State.reg_askKey (i : Nibble) : s.askKey.reg i = s.reg i := rfl
@[simp] theorem State.reg_drawRandom (i : Nibble) : s.drawRandom.reg i = s.reg i := rfl
@[simp] theorem State.reg_advancePc (i : Nibble) : s.advancePc.reg i = s.reg i := rfl

/-- Two register files with the same registers are the same. -/
theorem State.v_ext {s t : State} (h : ∀ i : Nibble, s.reg i = t.reg i) : s.v = t.v := by
  apply Vector.ext
  intro k hk
  have := h (BitVec.ofNat 4 k)
  have hm : k % 16 = k := Nat.mod_eq_of_lt hk
  simpa [State.reg, BitVec.toNat_ofNat, hm] using this

/-- A register write changes the register file and nothing else. -/
theorem State.setReg_frame (i : Nibble) (b : Byte) : s.setReg i b = { s with v := (s.setReg i b).v } := rfl

/-- The flag is written after the result (R59): `VF` ends holding the flag, the destination the result
unless it is `VF`, and every other register its value. -/
@[simp] theorem State.reg_setRegFlag (x j : Nibble) (r f : Byte) :
    (s.setRegFlag x r f).reg j = if j = vf then f else if j = x then r else s.reg j := by
  simp [State.setRegFlag]

theorem State.setRegFlag_frame (x : Nibble) (r f : Byte) :
    s.setRegFlag x r f = { s with v := (s.setRegFlag x r f).v } := rfl

/-- A block of registers written changes the register file and nothing else. -/
theorem State.setRegsFrom_frame (k : Nat) (bs : List Byte) :
    s.setRegsFrom k bs = { s with v := (s.setRegsFrom k bs).v } := by
  induction bs generalizing s k with
  | nil => rfl
  | cons b rest ih =>
    simp only [State.setRegsFrom]
    rw [ih]
    rfl

/-- What a block write leaves in a register: the byte of its place in the block, or its value. -/
theorem State.reg_setRegsFrom {k : Nat} {bs : List Byte} (h : k + bs.length ≤ 16) (j : Nibble) :
    (s.setRegsFrom k bs).reg j =
      if hj : k ≤ j.toNat ∧ j.toNat < k + bs.length then bs[j.toNat - k]'(by omega) else s.reg j := by
  induction bs generalizing s k with
  | nil =>
    have : ¬(k ≤ j.toNat ∧ j.toNat < k) := by omega
    simp [State.setRegsFrom, this]
  | cons b rest ih =>
    simp only [List.length_cons] at h
    rw [State.setRegsFrom, ih _ (by omega)]
    by_cases hk : j.toNat = k
    · have hj : j = BitVec.ofNat 4 k := by
        apply BitVec.eq_of_toNat_eq
        rw [BitVec.toNat_ofNat, Nat.mod_eq_of_lt (by omega), hk]
      subst hj
      have hlt : ¬(k + 1 ≤ k) := by omega
      simp [hk]
    · have hj : j ≠ BitVec.ofNat 4 k := by
        rintro rfl
        rw [BitVec.toNat_ofNat, Nat.mod_eq_of_lt (by omega)] at hk
        exact hk rfl
      rw [State.reg_setReg, if_neg hj]
      by_cases hin : k + 1 ≤ j.toNat ∧ j.toNat < k + 1 + rest.length
      · have hin' : k ≤ j.toNat ∧ j.toNat < k + (rest.length + 1) := by omega
        have hsub : j.toNat - k = (j.toNat - (k + 1)) + 1 := by omega
        simp only [hin, hin', List.length_cons, and_self, dite_true]
        simp [hsub]
      · have hin' : ¬(k ≤ j.toNat ∧ j.toNat < k + (rest.length + 1)) := by omega
        simp only [hin, hin', List.length_cons, dite_false]

@[simp] theorem length_regsUpTo (x : Nibble) : (regsUpTo s x).length = x.toNat + 1 := by
  simp [regsUpTo]

@[simp] theorem getElem_regsUpTo (x : Nibble) (k : Nat) (h : k < (regsUpTo s x).length) :
    (regsUpTo s x)[k] = s.reg (BitVec.ofNat 4 k) := by
  simp [regsUpTo]

@[simp] theorem length_decimalDigits (b : Byte) : (decimalDigits b).length = 3 := rfl

@[simp] theorem length_spriteBytes (n : Nibble) : (spriteBytes s n).length = n.toNat := by
  simp [spriteBytes, Memory.readBytes]

/-- A flag is 0x00 or 0x01 (10_state.md R15). -/
theorem flagByte_cases (c : Bool) : flagByte c = 0x00#8 ∨ flagByte c = 0x01#8 := by
  cases c
  · exact .inl rfl
  · exact .inr rfl

/-- The address of a glyph (20_memory.md R34), for a hex digit. -/
theorem glyphAddress_toNat {d : Byte} (h : d.toNat ≤ 15) : (glyphAddress d).toNat = 5 * d.toNat := by
  simp only [glyphAddress, Config.fontBase, BitVec.toNat_ofNat, Nat.zero_add]
  omega

end Sys2Proof.Machine
end

