-- ==== Sys2Proof/Laws/Operations.lean ====
section
/-! SUPPORT. What each shared operation of the machine can do, said once: skips, errors, the timer tick,
the key poll, the dispatcher step and the scheduler step. -/

namespace Sys2Proof.Machine

/-! ## Skips, errors and the fetch -/

/-- A skip writes `pc` and nothing else (43_skips.md R74). -/
theorem State.skipIf_eq (s : State) (c : Bool) :
    s.skipIf c = s.setPc (if c then s.pc + 2#16 else s.pc) := rfl

@[simp] theorem State.advancePc_eq (s : State) : s.advancePc = s.setPc (s.pc + 2#16) := rfl

/-- An error changes `run` and nothing else (60_exceptions.md R105). -/
theorem State.raise_eq (s : State) (e : Error) (w : Option Word) (a : Word) :
    s.raise e w a = s.setRun (.halted ⟨e, w, a⟩) := rfl

theorem raiseFrom_eq (e : Error) (i : Instr) (s : State) :
    raiseFrom e i s = .next (s.setRun (.halted ⟨e, some (encode i), s.pc - 2#16⟩)) := rfl

/-- A fetch reads the two bytes at `pc`, and only within the bank. -/
theorem State.fetchWord_eq_some {s : State} (h : s.pc.toNat + 1 < 4096) :
    s.fetchWord = some (s.mem.read s.pc.toNat ++ s.mem.read (s.pc.toNat + 1)) := by
  simp [State.fetchWord, h, wordOfBytes]

theorem State.fetchWord_eq_none {s : State} (h : 4096 ≤ s.pc.toNat + 1) : s.fetchWord = none := by
  simp [State.fetchWord, Nat.not_lt.mpr h]

theorem State.fetchWord_some {s : State} {w : Word} (h : s.fetchWord = some w) :
    s.pc.toNat + 1 < 4096 ∧ w = s.mem.read s.pc.toNat ++ s.mem.read (s.pc.toNat + 1) := by
  unfold State.fetchWord at h
  split at h
  · exact ⟨‹_›, (Option.some.inj h).symm⟩
  · cases h

/-- The fetch depends on memory and `pc` only. -/
theorem State.fetchWord_congr {s t : State} (hm : t.mem = s.mem) (hp : t.pc = s.pc) :
    t.fetchWord = s.fetchWord := by
  simp [State.fetchWord, hm, hp]

/-! ## The timer tick and the key poll -/

/-- A timer stops at 0 (60_exceptions.md R114). -/
theorem countDown_toNat (b : Byte) : (countDown b).toNat = b.toNat - 1 := by
  unfold countDown
  split
  · simp [*]
  · have hb : b.toNat ≠ 0 := fun h => ‹¬b = 0x00#8› (BitVec.eq_of_toNat_eq (by simpa using h))
    have := b.isLt
    simp only [BitVec.toNat_sub, BitVec.toNat_ofNat]
    omega

/-- A tick writes the timers, the audio level and the record of the audio sink, and nothing else. -/
theorem timerTick_eq (s : State) :
    timerTick s = { s with
      dt := countDown s.dt
      st := countDown s.st
      audioOn := countDown s.st != 0x00#8
      hostLog := .audio (countDown s.st != 0x00#8) :: s.hostLog } := rfl

@[simp] theorem timerTick_run (s : State) : (timerTick s).run = s.run := rfl
@[simp] theorem timerTick_pc (s : State) : (timerTick s).pc = s.pc := rfl
@[simp] theorem timerTick_mem (s : State) : (timerTick s).mem = s.mem := rfl
@[simp] theorem timerTick_index (s : State) : (timerTick s).index = s.index := rfl
@[simp] theorem timerTick_stack (s : State) : (timerTick s).stack = s.stack := rfl
@[simp] theorem timerTick_accD (s : State) : (timerTick s).accD = s.accD := rfl
@[simp] theorem timerTick_accT (s : State) : (timerTick s).accT = s.accT := rfl
@[simp] theorem timerTick_reg (s : State) (i : Nibble) : (timerTick s).reg i = s.reg i := rfl
@[simp] theorem timerTick_fetchWord (s : State) : (timerTick s).fetchWord = s.fetchWord := rfl

theorem keyPoll_none {s : State} (h : s.keyAnswer = none) (x : Nibble) (owed : Bool) :
    keyPoll x owed s = s.askKey := by
  simp [keyPoll, h]

theorem keyPoll_some {s : State} {c : Nibble} (h : s.keyAnswer = some c) (x : Nibble) (owed : Bool) :
    keyPoll x owed s =
      if owed then timerTick ((s.askKey.setReg x (keyByte c)).setRun .running)
      else (s.askKey.setReg x (keyByte c)).setRun .running := by
  simp [keyPoll, h]

@[simp] theorem keyByte_toNat (k : Nibble) : (keyByte k).toNat = k.toNat := by
  have := k.isLt
  simp only [keyByte, BitVec.toNat_setWidth]
  omega

/-- The source answered the code that `V[x]` holds (43_skips.md R79). -/
theorem keyMatches_some (c : Nibble) (b : Byte) :
    keyMatches (some c) b = decide (c.toNat = b.toNat) := by
  simp only [keyMatches, Option.map_some]
  by_cases h : c.toNat = b.toNat
  · have : keyByte c = b := BitVec.eq_of_toNat_eq (by simpa using h)
    simp [h, this]
  · have : keyByte c ≠ b := fun hb => h (by rw [← hb, keyByte_toNat])
    simp [h, this]

@[simp] theorem keyMatches_none (b : Byte) : keyMatches none b = false := rfl

/-! ## The dispatcher step -/

theorem dispatchStep_of_no_word {s : State} (h : s.fetchWord = none) :
    dispatchStep s = .next (s.setRun (.halted ⟨.unspecified .addressOutOfRange, none, s.pc⟩)) := by
  simp [dispatchStep, h, State.raise_eq]

theorem dispatchStep_of_reject {s : State} {w : Word} {r : DecodeReject} (h : s.fetchWord = some w)
    (hd : decode w = .error r) :
    dispatchStep s =
      .next ((s.setPc (s.pc + 2#16)).setRun (.halted ⟨.decodeError, some w, s.pc⟩)) := by
  simp [dispatchStep, h, hd, State.raise_eq]

theorem dispatchStep_of_instr {s : State} {w : Word} {i : Instr} (h : s.fetchWord = some w)
    (hd : decode w = .ok i) : dispatchStep s = exec i (s.setPc (s.pc + 2#16)) := by
  simp [dispatchStep, h, hd]

/-- Everything a dispatcher step can do (40_dispatch.md R53): a fetch fault, a decode error, or the
execute part of one instruction within the bank. -/
theorem dispatchStep_cases (s : State) :
    (s.fetchWord = none ∧
      dispatchStep s = .next (s.setRun (.halted ⟨.unspecified .addressOutOfRange, none, s.pc⟩))) ∨
    (∃ w r, s.fetchWord = some w ∧ decode w = .error r ∧ s.pc.toNat + 1 < 4096 ∧
      dispatchStep s =
        .next ((s.setPc (s.pc + 2#16)).setRun (.halted ⟨.decodeError, some w, s.pc⟩))) ∨
    (∃ w i, s.fetchWord = some w ∧ decode w = .ok i ∧ s.pc.toNat + 1 < 4096 ∧
      dispatchStep s = exec i (s.setPc (s.pc + 2#16))) := by
  cases h : s.fetchWord with
  | none => exact .inl ⟨rfl, dispatchStep_of_no_word h⟩
  | some w =>
    have hpc := (State.fetchWord_some h).1
    cases hd : decode w with
    | error r => exact .inr (.inl ⟨w, r, rfl, hd, hpc, dispatchStep_of_reject h hd⟩)
    | ok i => exact .inr (.inr ⟨w, i, rfl, hd, hpc, dispatchStep_of_instr h hd⟩)

/-- The advanced `pc` of a fetch within the bank does not wrap (10_state.md R17). -/
theorem pc_add_two_toNat {s : State} (h : s.pc.toNat + 1 < 4096) :
    (s.pc + 2#16).toNat = s.pc.toNat + 2 := by
  simp only [BitVec.toNat_add, BitVec.toNat_ofNat]
  omega

/-! ## The scheduler step -/

@[simp] theorem onNext_next (t : State) (f : State → State) : onNext (.next t) f = .next (f t) := rfl

theorem onNext_eq_next {o : Host.Outcome State Fault Refusal} {f : State → State} {t : State}
    (h : onNext o f = .next t) : ∃ u, o = .next u ∧ t = f u := by
  cases o with
  | next u => exact ⟨u, rfl, (Host.Outcome.next.inj h).symm⟩
  | fault r => cases h
  | refused r => cases h

theorem tickAfterDispatch_running {s : State} (h : s.run = .running) :
    tickAfterDispatch s = timerTick s := by
  simp [tickAfterDispatch, h]

theorem tickAfterDispatch_waitKey {s : State} {x : Nibble} {b : Bool} (h : s.run = .waitKey x b) :
    tickAfterDispatch s = s.setRun (.waitKey x true) := by
  simp [tickAfterDispatch, h]

theorem tickAfterDispatch_halted {s : State} {r : HaltRecord} (h : s.run = .halted r) :
    tickAfterDispatch s = s := by
  simp [tickAfterDispatch, h]

theorem schedulerStep_running (p : Params) {s : State} (h : s.run = .running) :
    schedulerStep p s =
      fireActions p.sameStepOrder (firesDispatch p s) (firesTick p s) (advanceAcc p s) := by
  simp [schedulerStep, h]

theorem schedulerStep_waitKey (p : Params) {s : State} {x : Nibble} {b : Bool}
    (h : s.run = .waitKey x b) : schedulerStep p s = .next s := by
  simp [schedulerStep, h]

theorem schedulerStep_halted (p : Params) {s : State} {r : HaltRecord} (h : s.run = .halted r) :
    schedulerStep p s = .next s := by
  simp [schedulerStep, h]

/-- Everything the actions of a scheduler step can do (60_exceptions.md R115, R120). -/
theorem fireActions_cases (o : SameStepOrder) (d t : Bool) (s : State) :
    fireActions o d t s = .next s ∨ fireActions o d t s = .next (timerTick s) ∨
      fireActions o d t s = dispatchStep s ∨
      fireActions o d t s = onNext (dispatchStep s) tickAfterDispatch ∨
      fireActions o d t s = dispatchStep (timerTick s) := by
  cases d <;> cases t <;> cases o <;> simp [fireActions]

theorem schedulerSteps_succ_next {p : Params} {s t : State} (h : schedulerStep p s = .next t) (n : Nat) :
    schedulerSteps p (n + 1) s = schedulerSteps p n t := by
  simp [schedulerSteps, h]

end Sys2Proof.Machine
end

