-- ==== Sys2Proof/Laws/PerInstr.lean ====
section
/-! SUPPORT. Statements made instruction by instruction: the encoder never gives an illegal word
(30_encoding.md R46 to R51). -/

namespace Sys2Proof.Laws

/-- The legality of a word, in the names of its fields. -/
theorem wellFormedWord_fields (w : Word) : wellFormedWord w =
    match (fieldFamily w).toNat with
    | 0x0 => w == 0x00E0#16 || w == 0x00EE#16
    | 0x5 => fieldN w == 0x0#4
    | 0x8 => family8Functions.contains (fieldN w)
    | 0x9 => fieldN w == 0x0#4
    | 0xE => familyEFunctions.contains (fieldNN w)
    | 0xF => familyFFunctions.contains (fieldNN w)
    | _ => true := rfl

/-- The word of `i` is none of the illegal ones. -/
def EncodeLegal.Statement (i : Instr) : Prop := wellFormedWord (encode i) = true

theorem EncodeLegal.cls : EncodeLegal.Statement .cls := by
  unfold EncodeLegal.Statement
  decide

theorem EncodeLegal.ret : EncodeLegal.Statement .ret := by
  unfold EncodeLegal.Statement
  decide

theorem EncodeLegal.jp (nnn : Addr) : EncodeLegal.Statement (.jp nnn) := by
  simp [EncodeLegal.Statement, encode, wellFormedWord_fields]

theorem EncodeLegal.call (nnn : Addr) : EncodeLegal.Statement (.call nnn) := by
  simp [EncodeLegal.Statement, encode, wellFormedWord_fields]

theorem EncodeLegal.seImm (x : Nibble) (nn : Byte) : EncodeLegal.Statement (.seImm x nn) := by
  simp [EncodeLegal.Statement, encode, wellFormedWord_fields]

theorem EncodeLegal.sneImm (x : Nibble) (nn : Byte) : EncodeLegal.Statement (.sneImm x nn) := by
  simp [EncodeLegal.Statement, encode, wellFormedWord_fields]

theorem EncodeLegal.seReg (x y : Nibble) : EncodeLegal.Statement (.seReg x y) := by
  simp [EncodeLegal.Statement, encode, wellFormedWord_fields]

theorem EncodeLegal.ldImm (x : Nibble) (nn : Byte) : EncodeLegal.Statement (.ldImm x nn) := by
  simp [EncodeLegal.Statement, encode, wellFormedWord_fields]

theorem EncodeLegal.addImm (x : Nibble) (nn : Byte) : EncodeLegal.Statement (.addImm x nn) := by
  simp [EncodeLegal.Statement, encode, wellFormedWord_fields]

theorem EncodeLegal.ldReg (x y : Nibble) : EncodeLegal.Statement (.ldReg x y) := by
  simp [EncodeLegal.Statement, encode, wellFormedWord_fields, family8Functions]

theorem EncodeLegal.orReg (x y : Nibble) : EncodeLegal.Statement (.orReg x y) := by
  simp [EncodeLegal.Statement, encode, wellFormedWord_fields, family8Functions]

theorem EncodeLegal.andReg (x y : Nibble) : EncodeLegal.Statement (.andReg x y) := by
  simp [EncodeLegal.Statement, encode, wellFormedWord_fields, family8Functions]

theorem EncodeLegal.xorReg (x y : Nibble) : EncodeLegal.Statement (.xorReg x y) := by
  simp [EncodeLegal.Statement, encode, wellFormedWord_fields, family8Functions]

theorem EncodeLegal.addReg (x y : Nibble) : EncodeLegal.Statement (.addReg x y) := by
  simp [EncodeLegal.Statement, encode, wellFormedWord_fields, family8Functions]

theorem EncodeLegal.subReg (x y : Nibble) : EncodeLegal.Statement (.subReg x y) := by
  simp [EncodeLegal.Statement, encode, wellFormedWord_fields, family8Functions]

theorem EncodeLegal.shr (x y : Nibble) : EncodeLegal.Statement (.shr x y) := by
  simp [EncodeLegal.Statement, encode, wellFormedWord_fields, family8Functions]

theorem EncodeLegal.shl (x y : Nibble) : EncodeLegal.Statement (.shl x y) := by
  simp [EncodeLegal.Statement, encode, wellFormedWord_fields, family8Functions]

theorem EncodeLegal.sneReg (x y : Nibble) : EncodeLegal.Statement (.sneReg x y) := by
  simp [EncodeLegal.Statement, encode, wellFormedWord_fields]

theorem EncodeLegal.ldI (nnn : Addr) : EncodeLegal.Statement (.ldI nnn) := by
  simp [EncodeLegal.Statement, encode, wellFormedWord_fields]

theorem EncodeLegal.jpV0 (nnn : Addr) : EncodeLegal.Statement (.jpV0 nnn) := by
  simp [EncodeLegal.Statement, encode, wellFormedWord_fields]

theorem EncodeLegal.rnd (x : Nibble) (nn : Byte) : EncodeLegal.Statement (.rnd x nn) := by
  simp [EncodeLegal.Statement, encode, wellFormedWord_fields]

theorem EncodeLegal.drw (x y n : Nibble) : EncodeLegal.Statement (.drw x y n) := by
  simp [EncodeLegal.Statement, encode, wellFormedWord_fields]

theorem EncodeLegal.skp (x : Nibble) : EncodeLegal.Statement (.skp x) := by
  simp [EncodeLegal.Statement, encode, wellFormedWord_fields, familyEFunctions]

theorem EncodeLegal.sknp (x : Nibble) : EncodeLegal.Statement (.sknp x) := by
  simp [EncodeLegal.Statement, encode, wellFormedWord_fields, familyEFunctions]

theorem EncodeLegal.ldVxDt (x : Nibble) : EncodeLegal.Statement (.ldVxDt x) := by
  simp [EncodeLegal.Statement, encode, wellFormedWord_fields, familyFFunctions]

theorem EncodeLegal.ldVxK (x : Nibble) : EncodeLegal.Statement (.ldVxK x) := by
  simp [EncodeLegal.Statement, encode, wellFormedWord_fields, familyFFunctions]

theorem EncodeLegal.ldDtVx (x : Nibble) : EncodeLegal.Statement (.ldDtVx x) := by
  simp [EncodeLegal.Statement, encode, wellFormedWord_fields, familyFFunctions]

theorem EncodeLegal.ldStVx (x : Nibble) : EncodeLegal.Statement (.ldStVx x) := by
  simp [EncodeLegal.Statement, encode, wellFormedWord_fields, familyFFunctions]

theorem EncodeLegal.addI (x : Nibble) : EncodeLegal.Statement (.addI x) := by
  simp [EncodeLegal.Statement, encode, wellFormedWord_fields, familyFFunctions]

theorem EncodeLegal.ldF (x : Nibble) : EncodeLegal.Statement (.ldF x) := by
  simp [EncodeLegal.Statement, encode, wellFormedWord_fields, familyFFunctions]

theorem EncodeLegal.ldB (x : Nibble) : EncodeLegal.Statement (.ldB x) := by
  simp [EncodeLegal.Statement, encode, wellFormedWord_fields, familyFFunctions]

theorem EncodeLegal.ldMemVx (x : Nibble) : EncodeLegal.Statement (.ldMemVx x) := by
  simp [EncodeLegal.Statement, encode, wellFormedWord_fields, familyFFunctions]

theorem EncodeLegal.ldVxMem (x : Nibble) : EncodeLegal.Statement (.ldVxMem x) := by
  simp [EncodeLegal.Statement, encode, wellFormedWord_fields, familyFFunctions]

end Sys2Proof.Laws
end

