-- ==== Sys2Proof/Laws/Runs.lean ====
section
/-! SUPPORT. The host's move, and bounded prefixes of a run (60_exceptions.md R123, R127,
70_reset_and_hazards.md R143), one move at a time. -/

namespace Sys2Proof.Machine

/-! ## One move -/

theorem hostMove_running (p : Params) {s : State} (h : s.run = .running) :
    hostMove p s = schedulerStep p (skipIdle (idleSteps p s) s) := by
  simp [hostMove, h, eventStep]

theorem hostMove_waitKey (p : Params) {s : State} {x : Nibble} {b : Bool} (h : s.run = .waitKey x b) :
    hostMove p s = .next (keyPoll x b s) := by
  simp [hostMove, h]

theorem hostMove_halted (p : Params) {s : State} {r : HaltRecord} (h : s.run = .halted r) :
    hostMove p s = .next s := by
  simp [hostMove, h]

@[simp] theorem skipIdle_run (n : Nat) (s : State) : (skipIdle n s).run = s.run := rfl

theorem dispatches_running (p : Params) {s : State} (h : s.run = .running) :
    dispatches p s = firesDispatch p s := by
  simp [dispatches, h]

/-- Only a running core dispatches (40_dispatch.md R54). -/
theorem dispatches_of_not_running (p : Params) {s : State} (h : s.run ≠ .running) :
    dispatches p s = false := by
  cases hr : s.run with
  | running => exact absurd hr h
  | waitKey x b => simp [dispatches, hr]
  | halted r => simp [dispatches, hr]

/-! ## Prefixes by count -/

@[simp] theorem afterSchedulerSteps_zero (p : Params) (moves : Nat) (s : State) :
    afterSchedulerSteps p moves 0 s = some s := by
  cases moves <;> rfl

/-- A poll is no scheduler step. -/
theorem afterSchedulerSteps_poll (p : Params) {s : State} {x : Nibble} {b : Bool}
    (h : s.run = .waitKey x b) (moves n : Nat) :
    afterSchedulerSteps p (moves + 1) (n + 1) s = afterSchedulerSteps p moves (n + 1) (keyPoll x b s) := by
  simp only [afterSchedulerSteps, h]

theorem afterSchedulerSteps_schedule (p : Params) {s t : State} (h : ∀ x b, s.run ≠ .waitKey x b)
    (hs : schedulerStep p s = .next t) (moves n : Nat) :
    afterSchedulerSteps p (moves + 1) (n + 1) s = afterSchedulerSteps p moves n t := by
  cases hr : s.run with
  | waitKey x b => exact absurd hr (h x b)
  | running => simp only [afterSchedulerSteps, hr, hs]
  | halted r => simp only [afterSchedulerSteps, hr, hs]

@[simp] theorem afterDispatches_zero (p : Params) (moves : Nat) (s : State) :
    afterDispatches p moves 0 s = some s := by
  cases moves <;> rfl

theorem afterDispatches_move (p : Params) {s t : State} (h : hostMove p s = .next t) (moves n : Nat) :
    afterDispatches p (moves + 1) (n + 1) s =
      afterDispatches p moves (if dispatches p (skipIdle (idleSteps p s) s) then n else n + 1) t := by
  simp only [afterDispatches, h]

/-- One run after another. -/
theorem Reaches.trans {p : Params} {s t u : State} {n d n' d' : Nat} (h : Reaches p s n d t)
    (h' : Reaches p t n' d' u) : Reaches p s (n + n') (d + d') u := by
  induction h' with
  | start => exact h
  | schedule _ hw hs ih =>
    rw [← Nat.add_assoc, ← Nat.add_assoc]
    exact .schedule ih hw hs
  | poll _ hw ih => exact .poll ih hw

end Sys2Proof.Machine
end

