-- ==== Sys2Proof/Tests/Slice0.lean ====
section
/-! SUPPORT. Tests. A word is written out from the encoding column of 30_encoding.md R45; an expected
result comes from spec/95_test_vectors.md (its number is in the docstring) or from the rule named. The last
part holds, for every statement with hypotheses, operands and states that meet them. -/

namespace Sys2Proof.Tests

open Sys2Proof Sys2Proof.Machine

/-! ## Helpers -/

/-- What `f` reads in the next state, if there is one. -/
def after {α : Type} (o : Host.Outcome State Fault Refusal) (f : State → α) : Option α :=
  match o with
  | .next t => some (f t)
  | .fault _ => none
  | .refused _ => none

/-- `s` with a word at `pc`. -/
def withWord (w : Word) (s : State) : State := s.store s.pc.toNat (bytesOfWord w)

/-- `s` with bytes in some registers. -/
def withRegs (l : List (Nibble × Byte)) (s : State) : State :=
  l.foldl (fun u c => u.setReg c.1 c.2) s

/-- One dispatcher step of word `w` at 0x200, in a state made from reset (95_test_vectors.md). -/
def one {α : Type} (w : Word) (start : State → State) (f : State → α) : Option α :=
  after (dispatchStep (withWord w (start State.reset))) f

/-- The parameters of the small illustration L2.8.2, with periods 3 and 6. -/
def small (order : SameStepOrder) : Params := ⟨2, 5, order⟩

/-- A jump to itself at 0x200, as it stands before its dispatch. -/
def looping : State := withWord 0x1200#16 State.reset

/-! ## Words that are no instruction (R46 to R51) -/

theorem test_illformed_family0 : wellFormedWord 0x0123#16 = false ∧ wellFormedWord 0x00E1#16 = false ∧
    decode 0x0123#16 = .error (.unlisted 0x0123#16) ∧ decode 0x0000#16 = .error (.unlisted 0x0000#16) := by
  decide

theorem test_illformed_family5 : wellFormedWord 0x5121#16 = false ∧
    decode 0x5121#16 = .error (.unlisted 0x5121#16) := by decide

theorem test_illformed_family8 : wellFormedWord 0x801F#16 = false ∧ wellFormedWord 0x8017#16 = false ∧
    decode 0x801F#16 = .error (.unlisted 0x801F#16) := by decide

theorem test_illformed_family9 : wellFormedWord 0x912F#16 = false ∧
    decode 0x912F#16 = .error (.unlisted 0x912F#16) := by decide

theorem test_illformed_familyE : wellFormedWord 0xE09F#16 = false ∧ wellFormedWord 0xE000#16 = false ∧
    decode 0xE09F#16 = .error (.unlisted 0xE09F#16) := by decide

theorem test_illformed_familyF : wellFormedWord 0xF056#16 = false ∧ wellFormedWord 0xF0FF#16 = false ∧
    decode 0xF056#16 = .error (.unlisted 0xF056#16) := by decide

theorem test_wellformed_words : wellFormedWord 0x00EE#16 = true ∧ wellFormedWord 0x1000#16 = true ∧
    wellFormedWord 0x812E#16 = true ∧ wellFormedWord 0xE1A1#16 = true ∧ wellFormedWord 0xFF65#16 = true := by
  decide

theorem test_bytes_too_few : decodeBytes [0x12#8] = .error (.truncated [0x12#8]) ∧
    decodeBytes [] = .error (.truncated []) := by decide

theorem test_bytes_big_endian :
    decodeBytes [0xA1#8, 0x23#8, 0x77#8] = .ok (.ldI 0x123#12, [0x77#8]) := by decide

/-! ## Every constructor's word (R45) -/

theorem test_decode_display :
    decode 0x00E0#16 = .ok .cls ∧ decode 0xD127#16 = .ok (.drw 0x1#4 0x2#4 0x7#4) := by decide

theorem test_decode_control :
    decode 0x00EE#16 = .ok .ret ∧ decode 0x1ABC#16 = .ok (.jp 0xABC#12) ∧
    decode 0x2DEF#16 = .ok (.call 0xDEF#12) ∧ decode 0xB123#16 = .ok (.jpV0 0x123#12) := by decide

theorem test_decode_skips :
    decode 0x332A#16 = .ok (.seImm 0x3#4 0x2A#8) ∧ decode 0x4F01#16 = .ok (.sneImm 0xF#4 0x01#8) ∧
    decode 0x5120#16 = .ok (.seReg 0x1#4 0x2#4) ∧ decode 0x9AB0#16 = .ok (.sneReg 0xA#4 0xB#4) ∧
    decode 0xE59E#16 = .ok (.skp 0x5#4) ∧ decode 0xE6A1#16 = .ok (.sknp 0x6#4) := by decide

theorem test_decode_immediate :
    decode 0x6A42#16 = .ok (.ldImm 0xA#4 0x42#8) ∧ decode 0x7201#16 = .ok (.addImm 0x2#4 0x01#8) ∧
    decode 0xC40F#16 = .ok (.rnd 0x4#4 0x0F#8) := by decide

theorem test_decode_family8 :
    decode 0x8120#16 = .ok (.ldReg 0x1#4 0x2#4) ∧ decode 0x8341#16 = .ok (.orReg 0x3#4 0x4#4) ∧
    decode 0x8562#16 = .ok (.andReg 0x5#4 0x6#4) ∧ decode 0x8783#16 = .ok (.xorReg 0x7#4 0x8#4) ∧
    decode 0x89A4#16 = .ok (.addReg 0x9#4 0xA#4) ∧ decode 0x8BC5#16 = .ok (.subReg 0xB#4 0xC#4) ∧
    decode 0x8DE6#16 = .ok (.shr 0xD#4 0xE#4) ∧ decode 0x8F0E#16 = .ok (.shl 0xF#4 0x0#4) := by decide

theorem test_decode_index_memory :
    decode 0xA123#16 = .ok (.ldI 0x123#12) ∧ decode 0xF21E#16 = .ok (.addI 0x2#4) ∧
    decode 0xF629#16 = .ok (.ldF 0x6#4) ∧ decode 0xF133#16 = .ok (.ldB 0x1#4) ∧
    decode 0xFE55#16 = .ok (.ldMemVx 0xE#4) ∧ decode 0xFF65#16 = .ok (.ldVxMem 0xF#4) := by decide

theorem test_decode_timers_keys :
    decode 0xF307#16 = .ok (.ldVxDt 0x3#4) ∧ decode 0xF20A#16 = .ok (.ldVxK 0x2#4) ∧
    decode 0xF415#16 = .ok (.ldDtVx 0x4#4) ∧ decode 0xF518#16 = .ok (.ldStVx 0x5#4) := by decide

theorem test_decode_table_word : decodeTableWord 16 0xD012 = some (.drw 0x0#4 0x1#4 0x2#4) ∧
    decodeTableWord 16 0x0000 = none := by decide

/-- A word placed for the first step after reset is fetched, decoded and run by it. -/
theorem test_first_step_runs_word :
    after (step (State.reset.withFetchWord 16 0x6A42)) (fun t => (t.reg 0xA#4, t.pc, t.accD, t.accT)) =
      some (0x42#8, 0x202#16, 0, 1429) := by decide

/-! ## Display -/

/-- L2.1.11. -/
theorem test_cls : one 0x00E0#16 (fun s => s.setFb (Frame.setRow s.fb 5 0x0780000000000000#64))
    (fun t => (Frame.row t.fb 5, t.hostLog)) =
      some (0x0#64, [.redraw (Vector.replicate 32 0x0#64)]) := by decide

/-- L2.1.2: the top row clipped at column 63, the second wrapped to row 0. -/
theorem test_drw_clips_and_wraps :
    one 0xD012#16 (fun s => ((withRegs [(0x0#4, 0x3C#8), (0x1#4, 0x1F#8)] s).setIndex 0x300#16).store 0x300
        [0xFF#8, 0x81#8])
      (fun t => (Frame.row t.fb 31, Frame.row t.fb 0, t.reg 0xF#4)) =
      some (0x000000000000000F#64, 0x0000000000000008#64, 0x00#8) := by decide

/-- L2.1.6: column 63 was lit and is turned off. -/
theorem test_drw_collides :
    one 0xD011#16 (fun s => (((withRegs [(0x0#4, 0x3C#8)] s).setIndex 0x300#16).store 0x300 [0xFF#8]).setFb
        (Frame.setRow s.fb 0 0x0000000000000001#64))
      (fun t => (Frame.row t.fb 0, t.reg 0xF#4)) = some (0x000000000000000E#64, 0x01#8) := by decide

/-! ## Control transfer -/

/-- L2.2.1. -/
theorem test_ret : one 0x00EE#16 (fun s => s.setStack [0x204#16]) (fun t => (t.pc, t.stack)) =
    some (0x204#16, []) := by decide

/-- L2.2.2. -/
theorem test_ret_underflow : one 0x00EE#16 id (fun t => (t.run, t.pc)) =
    some (.halted ⟨.stackUnderflow, some 0x00EE#16, 0x200#16⟩, 0x202#16) := by decide

/-- L2.2.3. -/
theorem test_jp : one 0x1ABC#16 id (fun t => t.pc) = some 0xABC#16 := by decide

/-- L2.2.4. -/
theorem test_call : one 0x2300#16 id (fun t => (t.pc, t.stack)) = some (0x300#16, [0x202#16]) := by decide

/-- L2.2.5. -/
theorem test_call_overflow :
    one 0x2300#16 (fun s => s.setStack (List.replicate 16 0x202#16)) (fun t => (t.run, t.pc, t.stack.length)) =
      some (.halted ⟨.stackOverflow, some 0x2300#16, 0x200#16⟩, 0x202#16, 16) := by decide

/-- L2.2.7: no mask. -/
theorem test_jpV0 : one 0xBFFF#16 (withRegs [(0x0#4, 0xFF#8)]) (fun t => t.pc) = some 0x10FE#16 := by decide

/-! ## Skips -/

/-- L2.3.1 and L2.3.2. -/
theorem test_se_imm : one 0x332A#16 (withRegs [(0x3#4, 0x2A#8)]) (fun t => t.pc) = some 0x204#16 ∧
    one 0x332B#16 (withRegs [(0x3#4, 0x2A#8)]) (fun t => t.pc) = some 0x202#16 := by decide

/-- L2.3.3 and L2.3.4. -/
theorem test_sne_imm : one 0x432A#16 (withRegs [(0x3#4, 0x2A#8)]) (fun t => t.pc) = some 0x202#16 ∧
    one 0x432B#16 (withRegs [(0x3#4, 0x2A#8)]) (fun t => t.pc) = some 0x204#16 := by decide

/-- L2.3.5 and L2.3.6. -/
theorem test_se_reg :
    one 0x5120#16 (withRegs [(0x1#4, 0x07#8), (0x2#4, 0x07#8)]) (fun t => t.pc) = some 0x204#16 ∧
    one 0x5120#16 (withRegs [(0x1#4, 0x07#8), (0x2#4, 0x08#8)]) (fun t => t.pc) = some 0x202#16 := by decide

/-- L2.3.8 and L2.3.9. -/
theorem test_sne_reg :
    one 0x9120#16 (withRegs [(0x1#4, 0x07#8), (0x2#4, 0x08#8)]) (fun t => t.pc) = some 0x204#16 ∧
    one 0x9110#16 (withRegs [(0x1#4, 0x07#8)]) (fun t => t.pc) = some 0x202#16 := by decide

/-- L2.3.11 and L2.3.14: a register above 15 matches no code. -/
theorem test_skp :
    one 0xE59E#16 (fun s => { withRegs [(0x5#4, 0x0A#8)] s with keyInputs := [some 0xA#4] })
      (fun t => (t.pc, t.keyInputs, t.hostLog)) = some (0x204#16, [], [.keyQuery (some 0xA#4)]) ∧
    one 0xE59E#16 (fun s => { withRegs [(0x5#4, 0x1A#8)] s with keyInputs := [some 0xA#4] })
      (fun t => t.pc) = some 0x202#16 := by decide

/-- L2.3.16 and L2.3.17. -/
theorem test_sknp :
    one 0xE5A1#16 (fun s => { withRegs [(0x5#4, 0x0A#8)] s with keyInputs := [none] })
      (fun t => t.pc) = some 0x204#16 ∧
    one 0xE5A1#16 (fun s => { withRegs [(0x5#4, 0x1A#8)] s with keyInputs := [some 0xA#4] })
      (fun t => t.pc) = some 0x204#16 := by decide

/-! ## Registers and arithmetic -/

/-- L2.4.1. -/
theorem test_ld_imm : one 0x6A42#16 id (fun t => (t.reg 0xA#4, t.pc)) = some (0x42#8, 0x202#16) := by decide

/-- L2.4.2: `VF` is the destination, and no flag overwrites it. -/
theorem test_add_imm : one 0x7FFF#16 (withRegs [(0xF#4, 0x10#8)]) (fun t => t.reg 0xF#4) = some 0x0F#8 := by
  decide

/-- L2.4.4. -/
theorem test_ld_reg :
    one 0x8120#16 (withRegs [(0x1#4, 0x11#8), (0x2#4, 0x22#8)]) (fun t => (t.reg 0x1#4, t.reg 0x2#4)) =
      some (0x22#8, 0x22#8) := by decide

/-- L2.4.5: `VF` keeps its value. -/
theorem test_or :
    one 0x8121#16 (withRegs [(0x1#4, 0x0F#8), (0x2#4, 0xF0#8), (0xF#4, 0x55#8)])
      (fun t => (t.reg 0x1#4, t.reg 0xF#4)) = some (0xFF#8, 0x55#8) := by decide

/-- L2.4.6. -/
theorem test_and :
    one 0x8122#16 (withRegs [(0x1#4, 0x3C#8), (0x2#4, 0x0F#8), (0xF#4, 0x55#8)])
      (fun t => (t.reg 0x1#4, t.reg 0xF#4)) = some (0x0C#8, 0x55#8) := by decide

/-- L2.4.7. -/
theorem test_xor :
    one 0x8123#16 (withRegs [(0x1#4, 0x3C#8), (0x2#4, 0x0F#8), (0xF#4, 0x55#8)])
      (fun t => (t.reg 0x1#4, t.reg 0xF#4)) = some (0x33#8, 0x55#8) := by decide

/-- L1.1. -/
theorem test_add_reg_carry :
    one 0x8124#16 (withRegs [(0x1#4, 0xFF#8), (0x2#4, 0x01#8)]) (fun t => (t.reg 0x1#4, t.reg 0xF#4)) =
      some (0x00#8, 0x01#8) := by decide

/-- L2.4.12: the old `VF` is added, then the flag overwrites it. -/
theorem test_add_reg_old_flag :
    one 0x81F4#16 (withRegs [(0x1#4, 0x01#8), (0xF#4, 0x02#8)]) (fun t => (t.reg 0x1#4, t.reg 0xF#4)) =
      some (0x03#8, 0x00#8) := by decide

/-- L1.2: a borrow clears the flag. -/
theorem test_sub_borrow :
    one 0x8125#16 (withRegs [(0x1#4, 0x03#8), (0x2#4, 0x05#8)]) (fun t => (t.reg 0x1#4, t.reg 0xF#4)) =
      some (0xFE#8, 0x00#8) := by decide

/-- L2.4.13: equal operands do not borrow. -/
theorem test_sub_equal :
    one 0x8125#16 (withRegs [(0x1#4, 0x07#8), (0x2#4, 0x07#8)]) (fun t => (t.reg 0x1#4, t.reg 0xF#4)) =
      some (0x00#8, 0x01#8) := by decide

/-- L2.4.16: the source is `V[y]`. -/
theorem test_shr :
    one 0x8236#16 (withRegs [(0x2#4, 0xAA#8), (0x3#4, 0x05#8)])
      (fun t => (t.reg 0x2#4, t.reg 0x3#4, t.reg 0xF#4)) = some (0x02#8, 0x05#8, 0x01#8) := by decide

/-- L2.4.19: the flag overwrites the result in `VF`. -/
theorem test_shr_into_flag :
    one 0x8F36#16 (withRegs [(0x3#4, 0x02#8)]) (fun t => t.reg 0xF#4) = some 0x00#8 := by decide

/-- L2.4.20. -/
theorem test_shl :
    one 0x823E#16 (withRegs [(0x3#4, 0x81#8)]) (fun t => (t.reg 0x2#4, t.reg 0xF#4)) =
      some (0x02#8, 0x01#8) := by decide

/-- L2.4.23. -/
theorem test_shl_into_flag :
    one 0x8FFE#16 (withRegs [(0xF#4, 0xC0#8)]) (fun t => t.reg 0xF#4) = some 0x01#8 := by decide

/-- L2.4.24. -/
theorem test_rnd :
    one 0xC40F#16 (fun s => { s with randomInputs := [0xB7#8] })
      (fun t => (t.reg 0x4#4, t.randomInputs, t.randomDraws)) = some (0x07#8, [], 1) := by decide

/-! ## Index and memory -/

/-- L2.5.1. -/
theorem test_ld_i : one 0xA123#16 id (fun t => t.index) = some 0x123#16 := by decide

/-- L2.5.2. -/
theorem test_add_i_overflow :
    one 0xF21E#16 (fun s => (withRegs [(0x2#4, 0x03#8)] s).setIndex 0xFFE#16)
      (fun t => (t.index, t.reg 0xF#4)) = some (0x001#16, 0x01#8) := by decide

/-- L2.5.4: 0xFFF is no overflow, and `VF` keeps its value. -/
theorem test_add_i_keeps_flag :
    one 0xF21E#16 (fun s => (withRegs [(0x2#4, 0x00#8), (0xF#4, 0x07#8)] s).setIndex 0xFFF#16)
      (fun t => (t.index, t.reg 0xF#4)) = some (0xFFF#16, 0x07#8) := by decide

/-- L2.5.8. -/
theorem test_ld_f : one 0xF629#16 (withRegs [(0x6#4, 0x0F#8)]) (fun t => t.index) = some 0x04B#16 := by decide

/-- L2.5.9. -/
theorem test_ld_f_digit :
    one 0xF629#16 (withRegs [(0x6#4, 0x10#8)]) (fun t => (t.run, t.index)) =
      some (.halted ⟨.unspecified .glyphDigitOutOfRange, some 0xF629#16, 0x200#16⟩, 0x000#16) := by decide

/-- L2.5.10. -/
theorem test_ld_b :
    one 0xF133#16 (fun s => (withRegs [(0x1#4, 0xFE#8)] s).setIndex 0x300#16)
      (fun t => (t.mem.readBytes 0x300 3, t.index)) = some ([0x02#8, 0x05#8, 0x04#8], 0x300#16) := by decide

/-- L2.5.13. -/
theorem test_ld_b_past_the_bank :
    one 0xF133#16 (fun s => (withRegs [(0x1#4, 0x07#8)] s).setIndex 0xFFE#16)
      (fun t => (t.run, t.mem.readBytes 0xFFE 2)) =
      some (.halted ⟨.unspecified .addressOutOfRange, some 0xF133#16, 0x200#16⟩, [0x00#8, 0x00#8]) := by decide

/-- L2.5.14. -/
theorem test_ld_mem_vx :
    one 0xF255#16 (fun s => (withRegs [(0x0#4, 0x01#8), (0x1#4, 0x02#8), (0x2#4, 0x03#8)] s).setIndex 0x400#16)
      (fun t => (t.mem.readBytes 0x400 4, t.index)) =
      some ([0x01#8, 0x02#8, 0x03#8, 0x00#8], 0x400#16) := by decide

/-- L2.5.16. -/
theorem test_ld_mem_vx_past_the_bank :
    one 0xFF55#16 (fun s => s.setIndex 0xFF1#16) (fun t => t.run) =
      some (.halted ⟨.unspecified .addressOutOfRange, some 0xFF55#16, 0x200#16⟩) := by decide

/-- L2.5.17. -/
theorem test_ld_vx_mem :
    one 0xF265#16 (fun s => (s.setIndex 0x400#16).store 0x400 [0x01#8, 0x02#8, 0x03#8, 0x04#8])
      (fun t => (t.reg 0x0#4, t.reg 0x1#4, t.reg 0x2#4, t.reg 0x3#4, t.index)) =
      some (0x01#8, 0x02#8, 0x03#8, 0x00#8, 0x400#16) := by decide

/-- L2.5.18. -/
theorem test_ld_vx_mem_flag :
    one 0xFF65#16 (fun s => (s.setIndex 0x400#16).store 0x40F [0x99#8]) (fun t => t.reg 0xF#4) =
      some 0x99#8 := by decide

/-! ## Timers and keys -/

/-- L2.6.1. -/
theorem test_ld_vx_dt : one 0xF307#16 (fun s => s.setDt 0x1E#8) (fun t => t.reg 0x3#4) = some 0x1E#8 := by
  decide

/-- L2.6.2. -/
theorem test_ld_dt_vx : one 0xF315#16 (withRegs [(0x3#4, 0x3C#8)]) (fun t => t.dt) = some 0x3C#8 := by decide

/-- L2.6.3. -/
theorem test_ld_st_vx :
    one 0xF318#16 (withRegs [(0x3#4, 0x05#8)]) (fun t => (t.st, t.audioOn)) = some (0x05#8, false) := by decide

/-- L2.6.7: held for one query, then woken by a poll. -/
theorem test_ld_vx_k_waits :
    one 0xF20A#16 (fun s => { s with keyInputs := [none, some 0x7#4] })
      (fun t => (t.run, t.pc, (keyPoll 0x2#4 false t).reg 0x2#4, (keyPoll 0x2#4 false t).run)) =
      some (.waitKey 0x2#4 false, 0x202#16, 0x07#8, .running) := by decide

/-- L2.6.8: a held key ends the instruction at once. -/
theorem test_ld_vx_k_at_once :
    one 0xF50A#16 (fun s => { withRegs [(0x5#4, 0xEE#8)] s with keyInputs := [some 0x0#4] })
      (fun t => (t.reg 0x5#4, t.run)) = some (0x00#8, .running) := by decide

/-- L2.6.4 and the first and the last tick of L1.9. -/
theorem test_tick :
    (timerTick (State.reset.setSt 0x05#8)).audioOn = true ∧ (timerTick (State.reset.setSt 0x05#8)).st = 0x04#8 ∧
    (timerTick (State.reset.setSt 0x01#8)).audioOn = false ∧
    (timerTick (State.reset.setSt 0x01#8)).hostLog = [.audio false] ∧
    (timerTick State.reset).dt = 0x00#8 := by decide

/-! ## The fetch, the scheduler and loading -/

/-- L2.2.9. -/
theorem test_fetch_past_the_bank :
    after (dispatchStep (State.reset.setPc 0xFFF#16)) (fun t => (t.run, t.pc)) =
      some (.halted ⟨.unspecified .addressOutOfRange, none, 0xFFF#16⟩, 0xFFF#16) := by decide

/-- L2.7: zero-filled memory. -/
theorem test_zero_word : one 0x0000#16 id (fun t => (t.run, t.pc)) =
    some (.halted ⟨.decodeError, some 0x0000#16, 0x200#16⟩, 0x202#16) := by decide

/-- L2.8.2: the third step dispatches and does not tick. -/
theorem test_periods :
    after (schedulerSteps (small .tickFirst) 3 (withWord 0x6305#16 State.reset))
      (fun t => (t.reg 0x3#4, t.accD, t.accT, t.hostLog)) = some (0x05#8, 0, 3, []) := by decide

/-- L2.8.3: a tick owed by the step that holds. -/
theorem test_wait_owes_tick :
    after (schedulerStep (small .dispatchFirst)
        (withWord 0xF00A#16 { State.reset with dt := 0x03#8, accD := 2, accT := 5, keyInputs := [none, some 0x5#4] }))
      (fun t => (t.run, t.dt, after (hostMove (small .dispatchFirst) t)
        (fun u => (u.reg 0x0#4, u.run, u.dt)))) =
      some (.waitKey 0x0#4 true, 0x03#8, some (0x05#8, .running, 0x02#8)) := by decide

/-- L2.8.3: a tick before the dispatch that holds. -/
theorem test_tick_before_wait :
    after (schedulerStep (small .tickFirst)
        (withWord 0xF00A#16 { State.reset with dt := 0x03#8, accD := 2, accT := 5, keyInputs := [none, some 0x5#4] }))
      (fun t => (t.run, t.dt)) = some (.waitKey 0x0#4 false, 0x02#8) := by decide

/-- The default font's last glyph (20_memory.md R34) and the program's first word after `load_program`
(R132). -/
theorem test_boot :
    (match boot defaultFont [0x12#8, 0x00#8] with
      | .ok t => some (t.fetchWord, t.mem.readBytes 0x4B 5)
      | .error _ => none) =
      some (some 0x1200#16, [0xF0#8, 0x80#8, 0xF0#8, 0x80#8, 0x80#8]) := by decide

/-- Another `FONT` (R7) is what `initialize()` leaves at 0x000 to 0x04F, and a store hides it (R33). -/
theorem test_other_font :
    (State.initialize (Vector.replicate 80 0x5A#8)).mem.readBytes 0x4E 3 = [0x5A#8, 0x5A#8, 0x00#8] ∧
    ((State.initialize (Vector.replicate 80 0x5A#8)).store 0x4F [0xF0#8]).mem.readBytes 0x4E 3 =
      [0x5A#8, 0xF0#8, 0x00#8] := by decide

/-- `F00A` and then a jump to itself at 0x202, with one unanswered query. -/
def waiting : State :=
  { State.reset.store 0x200 [0xF0#8, 0x0A#8, 0x12#8, 0x02#8] with keyInputs := [none, some 0x5#4] }

/-- R143 past a key wait, with the periods 3 and 6 of L2.8.2: the poll is counted neither as a dispatch nor
as a scheduler step, and the second dispatch is the jump. -/
theorem test_bounded_prefixes :
    (afterDispatches (small .tickFirst) 3 2 waiting).map (fun t => (t.reg 0x0#4, t.run, t.pc, t.accD)) =
      some (0x05#8, .running, 0x202#16, 0) ∧
    (afterSchedulerSteps (small .tickFirst) 5 4 waiting).map (fun t => (t.reg 0x0#4, t.run, t.accD, t.accT)) =
      some (0x05#8, .running, 1, 4) ∧
    afterSchedulerSteps (small .tickFirst) 4 4 waiting = none := by decide

/-! ## Operands and states that meet the hypotheses of the statements, one theorem for each statement
that has hypotheses. A state with the wanted word placed is `withWord`'s. -/

theorem witness_EncodeDecodeRoundTrip : decode 0xD012#16 = .ok (.drw 0x0#4 0x1#4 0x2#4) := by decide

theorem witness_DecodeIsTotalAndUnambiguous :
    wellFormedWord 0xF065#16 = true ∧ wellFormedWord 0xF066#16 = false := by decide

theorem witness_FamilyEAndFWords :
    (fieldFamily 0xE59E#16 = 0xE#4 ∧ fieldNN 0xE59E#16 = 0x9E#8) ∧
    (fieldFamily 0xE5A1#16 = 0xE#4 ∧ fieldNN 0xE5A1#16 = 0xA1#8) ∧
    (fieldFamily 0xE59F#16 = 0xE#4 ∧ fieldNN 0xE59F#16 ≠ 0x9E#8 ∧ fieldNN 0xE59F#16 ≠ 0xA1#8) ∧
    (fieldFamily 0xF065#16 = 0xF#4 ∧ fieldNN 0xF065#16 ∈ familyFFunctions) ∧
    (fieldFamily 0xF066#16 = 0xF#4 ∧ fieldNN 0xF066#16 ∉ familyFFunctions) := by decide

theorem witness_IllegalWordsOfFamilies0589 :
    (fieldFamily 0x00E1#16 = 0x0#4 ∧ (0x00E1#16 : Word) ≠ 0x00E0#16 ∧ (0x00E1#16 : Word) ≠ 0x00EE#16) ∧
    (fieldFamily 0x512F#16 = 0x5#4 ∧ fieldN 0x512F#16 ≠ 0x0#4) ∧
    (fieldFamily 0x9121#16 = 0x9#4 ∧ fieldN 0x9121#16 ≠ 0x0#4) ∧
    (fieldFamily 0x8017#16 = 0x8#4 ∧
      fieldN 0x8017#16 ∈ [0x7#4, 0x8#4, 0x9#4, 0xA#4, 0xB#4, 0xC#4, 0xD#4, 0xF#4]) := by decide

/-- The dispatch first; the tick first; both in one scheduler step. -/
theorem witness_StepRunsDecodedInstruction :
    (looping.run = .running ∧ looping.fetchWord = some 0x1200#16 ∧ decode 0x1200#16 = .ok (.jp 0x200#12)) ∧
    params.decodeInterval - looping.accD < params.timerInterval - looping.accT ∧
    ((looping.setAcc 0 16666).run = .running ∧ (looping.setAcc 0 16666).fetchWord = some 0x1200#16 ∧
      params.timerInterval - (looping.setAcc 0 16666).accT <
        params.decodeInterval - (looping.setAcc 0 16666).accD) ∧
    ((looping.setAcc 1428 16666).run = .running ∧ (looping.setAcc 1428 16666).fetchWord = some 0x1200#16 ∧
      params.decodeInterval - (looping.setAcc 1428 16666).accD =
        params.timerInterval - (looping.setAcc 1428 16666).accT) := by decide

theorem witness_FetchPastTheBankFaults :
    0xFFF ≤ (State.reset.setPc 0xFFF#16).pc.toNat ∧ ¬0xFFF ≤ (State.reset.setPc 0xFFE#16).pc.toNat := by decide

theorem witness_DecodeErrorHaltsAfterTheAdvance :
    State.reset.fetchWord = some 0x0000#16 ∧ decode 0x0000#16 = .error (.unlisted 0x0000#16) := by decide

theorem witness_HaltedIsAbsorbing :
    (State.reset.setRun (.halted ⟨.stackUnderflow, some 0x00EE#16, 0x200#16⟩)).run =
      .halted ⟨.stackUnderflow, some 0x00EE#16, 0x200#16⟩ := by decide

/-- Fifteen rows; a pixel the sprite lands on, one that it does not, and a lit pixel it turns off. -/
theorem witness_DrawSpriteTogglesPixels :
    (List.replicate 15 0xFF#8).length ≤ 15 ∧
    SpriteCovers (List.replicate 15 0xFF#8) ((0x3C#8).toNat % 64) (0x1F#8).toNat 31 63 ∧
    ¬SpriteCovers (List.replicate 15 0xFF#8) ((0x3C#8).toNat % 64) (0x1F#8).toNat 30 63 ∧
    Frame.pixel (Frame.setRow clearFrame 31 0x0000000000000001#64) 31 63 = true := by
  refine ⟨by decide, ⟨⟨0, by decide⟩, ⟨3, by decide⟩, by decide⟩, ?_, by decide⟩
  rintro ⟨i, j, h, -⟩
  have hi : i.val < 15 := i.isLt
  have hy : (0x1F#8).toNat = 31 := by decide
  omega

/-- No bytes at the very end of the bank, fifteen bytes that end there, and fifteen that do not fit. -/
theorem witness_DrwDrawsSprite :
    (0x0#4 = (0x0#4 : Nibble) ∨ (State.reset.setIndex 0xFFFF#16).index.toNat + (0x0#4).toNat ≤ 0x1000) ∧
    (0xF#4 = (0x0#4 : Nibble) ∨ (State.reset.setIndex 0xFF1#16).index.toNat + (0xF#4).toNat ≤ 0x1000) ∧
    ¬(0xF#4 = (0x0#4 : Nibble) ∨ (State.reset.setIndex 0xFF2#16).index.toNat + (0xF#4).toNat ≤ 0x1000) := by
  decide

/-- A pixel dark before the first draw, under a set bit. -/
theorem witness_DrawingTwiceRestores :
    [0x80#8].length ≤ 15 ∧ Frame.pixel clearFrame 5 5 = false ∧
    SpriteCovers [0x80#8] ((0x05#8).toNat % 64) (0x05#8).toNat 5 5 :=
  ⟨by decide, by decide, ⟨0, by decide⟩, ⟨0, by decide⟩, by decide⟩

theorem witness_RetPopsOrUnderflows :
    (State.reset.setStack [0x204#16]).stack = 0x204#16 :: [] ∧ State.reset.stack = [] := by decide

theorem witness_CallPushesOrOverflows :
    (State.reset.setStack (List.replicate 15 0x202#16)).stack.length < 16 ∧
    (State.reset.setStack (List.replicate 16 0x202#16)).stack.length = 16 := by decide

theorem witness_RegisterSkips : (0x1#4 : Nibble) ≠ 0x0#4 := by decide

/-- The code that `V[5]` holds, another code, and no key. -/
theorem witness_KeySkips :
    (let s := { withRegs [(0x5#4, 0x0A#8)] State.reset with keyInputs := [some 0xA#4] };
      s.keyAnswer = some 0xA#4 ∧ (0xA#4 : Nibble).toNat = (s.reg 0x5#4).toNat) ∧
    (let s := { withRegs [(0x5#4, 0x1A#8)] State.reset with keyInputs := [some 0xA#4] };
      s.keyAnswer = some 0xA#4 ∧ (0xA#4 : Nibble).toNat ≠ (s.reg 0x5#4).toNat) ∧
    { State.reset with keyInputs := [none] }.keyAnswer = none := by decide

/-- Another register than the destination and the flag. -/
theorem witness_other_registers : (0x0#4 : Nibble) ≠ 0x1#4 ∧ (0x0#4 : Nibble) ≠ 0xF#4 := by decide

theorem witness_CopyAndLogicWriteOnlyVx :
    (Instr.xorReg 0x1#4 0x2#4, State.reset.reg 0x1#4 ^^^ State.reset.reg 0x2#4) ∈
      [(Instr.ldReg 0x1#4 0x2#4, State.reset.reg 0x2#4),
       (Instr.orReg 0x1#4 0x2#4, State.reset.reg 0x1#4 ||| State.reset.reg 0x2#4),
       (Instr.andReg 0x1#4 0x2#4, State.reset.reg 0x1#4 &&& State.reset.reg 0x2#4),
       (Instr.xorReg 0x1#4 0x2#4, State.reset.reg 0x1#4 ^^^ State.reset.reg 0x2#4)] := by decide

/-- The sums 0x1000 and 0xFFF. -/
theorem witness_AddIMasksOnOverflow :
    (let s := (withRegs [(0x2#4, 0xFF#8)] State.reset).setIndex 0xF01#16;
      s.index.toNat + (s.reg 0x2#4).toNat > 0xFFF) ∧
    (let s := (withRegs [(0x2#4, 0xFF#8)] State.reset).setIndex 0xF00#16;
      s.index.toNat + (s.reg 0x2#4).toNat ≤ 0xFFF) := by decide

theorem witness_LdFPointsAtGlyph :
    ((withRegs [(0x6#4, 0x0F#8)] State.reset).reg 0x6#4).toNat ≤ 15 ∧
    ((withRegs [(0x6#4, 0x10#8)] State.reset).reg 0x6#4).toNat > 15 := by decide

/-- The digits end at the last byte of the bank; the bytes before and after them are other addresses. -/
theorem witness_LdBStoresDigits :
    (State.reset.setIndex 0xFFD#16).index.toNat + 2 ≤ 0xFFF ∧
    0xFFC < (State.reset.setIndex 0xFFD#16).index.toNat ∧
    (State.reset.setIndex 0xFFD#16).index.toNat + 3 ≤ 0x1000 := by decide

theorem witness_LdMemVxStoresRegisters :
    (State.reset.setIndex 0xFF0#16).index.toNat + (0xF#4).toNat ≤ 0xFFF ∧
    (0xF#4).toNat ≤ (0xF#4).toNat ∧ 0xFEF < (State.reset.setIndex 0xFF0#16).index.toNat ∧
    (State.reset.setIndex 0xFF0#16).index.toNat + (0xF#4).toNat < 0x1000 := by decide

theorem witness_LdVxMemLoadsRegisters :
    (State.reset.setIndex 0xFFD#16).index.toNat + (0x2#4).toNat ≤ 0xFFF ∧
    (0x2#4).toNat ≤ (0x2#4).toNat ∧ (0x2#4).toNat < (0x3#4).toNat := by decide

/-- Each of the four instructions with its last byte one past the bank. -/
theorem witness_AccessPastTheBankFaults :
    ((∃ x y n, Instr.drw 0x0#4 0x0#4 0x1#4 = .drw x y n ∧ 1 = n.toNat) ∧ 0 < 1 ∧
      (State.reset.setIndex 0x1000#16).index.toNat + 1 > 0x1000) ∧
    ((∃ x, Instr.ldB 0x0#4 = .ldB x ∧ 3 = 3) ∧ (State.reset.setIndex 0xFFE#16).index.toNat + 3 > 0x1000) ∧
    ((∃ x : Nibble, (Instr.ldMemVx 0x1#4 = .ldMemVx x ∨ Instr.ldMemVx 0x1#4 = .ldVxMem x) ∧
        2 = x.toNat + 1) ∧ (State.reset.setIndex 0xFFF#16).index.toNat + 2 > 0x1000) ∧
    ((∃ x : Nibble, (Instr.ldVxMem 0x1#4 = .ldMemVx x ∨ Instr.ldVxMem 0x1#4 = .ldVxMem x) ∧
        2 = x.toNat + 1) ∧ (State.reset.setIndex 0xFFF#16).index.toNat + 2 > 0x1000) :=
  ⟨⟨⟨_, _, _, rfl, by decide⟩, by decide, by decide⟩, ⟨⟨_, rfl, rfl⟩, by decide⟩,
    ⟨⟨_, .inl rfl, by decide⟩, by decide⟩, ⟨⟨_, .inr rfl, by decide⟩, by decide⟩⟩

theorem witness_StoreThenLoadRestoresRegisters :
    (State.reset.setIndex 0xFF0#16).index.toNat + (0xF#4).toNat ≤ 0xFFF := by decide

theorem witness_StoreIsSeenByNextFetch :
    (let s := (State.reset.setPc 0xFFE#16).setIndex 0xFFE#16;
      s.index = s.pc ∧ 1 ≤ (0x1#4).toNat ∧ s.index.toNat + (0x1#4).toNat ≤ 0xFFF) := by decide

theorem witness_KeyWaitStoresOrHolds :
    { State.reset with keyInputs := [some 0x0#4] }.keyAnswer = some 0x0#4 ∧
    { State.reset with keyInputs := [none] }.keyAnswer = none := by decide

theorem witness_KeyPollEndsTheWait :
    (let s := { State.reset with run := .waitKey 0x2#4 false, keyInputs := [none] };
      s.run = .waitKey 0x2#4 false ∧ s.keyAnswer = none) ∧
    (let s := { State.reset with run := .waitKey 0x2#4 false, keyInputs := [some 0x7#4] };
      s.run = .waitKey 0x2#4 false ∧ s.keyAnswer = some 0x7#4) ∧
    (let s := { State.reset with run := .waitKey 0x2#4 true, keyInputs := [some 0x7#4] };
      s.run = .waitKey 0x2#4 true ∧ s.keyAnswer = some 0x7#4) := by decide

/-- Nothing fires; a dispatch; a tick; both, in either order. -/
theorem witness_SchedulerStepFires :
    (looping.run = .running ∧ looping.accD + 1 ≤ (small .tickFirst).decodeInterval ∧
      looping.accT + 1 ≤ (small .tickFirst).timerInterval) ∧
    ((looping.setAcc 2 2).accD + 1 > (small .tickFirst).decodeInterval ∧
      (looping.setAcc 2 2).accT + 1 ≤ (small .tickFirst).timerInterval) ∧
    ((looping.setAcc 1 5).accD + 1 ≤ (small .tickFirst).decodeInterval ∧
      (looping.setAcc 1 5).accT + 1 > (small .tickFirst).timerInterval) ∧
    ((looping.setAcc 2 5).accD + 1 > (small .tickFirst).decodeInterval ∧
      (looping.setAcc 2 5).accT + 1 > (small .tickFirst).timerInterval ∧
      (small .tickFirst).sameStepOrder = .tickFirst ∧
      (small .dispatchFirst).sameStepOrder = .dispatchFirst) := by decide

/-- A dispatch that runs on, one that holds and one that halts, in a step in which the tick fires too. -/
theorem witness_SchedulerStepFires_dispatch_first :
    after (dispatchStep looping) (fun u => u.run) = some .running ∧
    after (dispatchStep (withWord 0xF20A#16 { State.reset with keyInputs := [none] })) (fun u => u.run) =
      some (.waitKey 0x2#4 false) ∧
    after (dispatchStep (withWord 0x00EE#16 State.reset)) (fun u => u.run) =
      some (.halted ⟨.stackUnderflow, some 0x00EE#16, 0x200#16⟩) := by decide

/-- A run of six scheduler steps, to the first in which both fire. -/
theorem witness_FiringsArePeriodic :
    looping.accD = 0 ∧ looping.accT = 0 ∧
    after (schedulerSteps (small .dispatchFirst) 6 looping) (fun t => t.run) = some .running := by decide

/-- Bounded prefixes that are reached, and a run with one scheduler step and no dispatch. -/
theorem witness_BoundedPrefixesAreRuns :
    (afterSchedulerSteps (small .tickFirst) 5 4 waiting).isSome = true ∧
    (afterDispatches (small .tickFirst) 3 2 waiting).isSome = true ∧
    Reaches (small .tickFirst) looping 1 0 (looping.setAcc 1 1) :=
  ⟨by decide, by decide, .schedule .start (fun _ _ => nofun) rfl⟩

theorem witness_EventStepRefinesSchedulerSteps :
    looping.run = .running ∧ 1 ≤ idleSteps (small .tickFirst) looping := by decide

/-- A completed store: an instruction, a register it may not write, an address it does not store to. -/
theorem witness_whole_machine_rules :
    after (exec (.ldB 0x1#4) (State.reset.setIndex 0x300#16)) (fun t => t.run) = some .running ∧
    mayWriteReg (.ldB 0x1#4) 0xF#4 = false ∧ storeLength (.cls) = 0 ∧
    0x2FF < (State.reset.setIndex 0x300#16).index.toNat ∧
    (State.reset.setIndex 0x300#16).index.toNat + storeLength (.ldB 0x1#4) ≤ 0x303 := by decide

/-- An instruction that completes and one that raises, entered in a state that is not halted. -/
theorem witness_HostInteractionsAreListed :
    (∀ r, State.reset.run ≠ .halted r) ∧
    after (exec .cls State.reset) (fun t => t.run) = some .running ∧
    after (exec .ret State.reset) (fun t => t.run) =
      some (.halted ⟨.stackUnderflow, some 0x00EE#16, 0x1FE#16⟩) :=
  ⟨fun _ => nofun, by decide, by decide⟩

/-- Each kind of state that some instruction changes. -/
theorem witness_OnlyNamedInstructionsChangeTheRest :
    after (exec (.drw 0x0#4 0x0#4 0x1#4) State.reset) (fun t => decide (t.fb ≠ State.reset.fb)) = some true ∧
    after (exec (.call 0x300#12) State.reset) (fun t => decide (t.stack ≠ State.reset.stack)) = some true ∧
    after (exec (.ldI 0x300#12) State.reset) (fun t => decide (t.index ≠ State.reset.index)) = some true ∧
    after (exec (.ldDtVx 0x1#4) (withRegs [(0x1#4, 0x01#8)] State.reset)) (fun t => decide (t.dt ≠ 0x00#8)) =
      some true ∧
    after (exec (.ldStVx 0x1#4) (withRegs [(0x1#4, 0x01#8)] State.reset)) (fun t => decide (t.st ≠ 0x00#8)) =
      some true := by decide

theorem witness_AccumulatorsAndSoundAreNotRead : ∀ x, Instr.ldVxDt 0x1#4 ≠ .ldStVx x := by decide

/-- The bounds at their limits: the highest `pc`, a full stack of the highest address, the highest `I`. -/
def atTheBounds : State :=
  { State.reset with
    pc := 0x10FE#16
    stack := List.replicate 16 0x1000#16
    index := 0xFFF#16
    accD := 1428
    accT := 16665 }

theorem witness_StepKeepsInvariant :
    atTheBounds.Inv params ∧ after (step atTheBounds) (fun t => t.pc) = some 0x10FE#16 :=
  ⟨⟨State.reset_mem_wf, by decide, by decide, fun a ha => by rw [List.eq_of_mem_replicate ha]; decide,
    by decide, by decide⟩, by decide⟩

/-- A wait that owes no tick, whatever the order. -/
theorem witness_StepKeepsWaitInvariant :
    (let s := { State.reset with run := .waitKey 0x2#4 false, keyInputs := [some 0x7#4] };
      s.WaitInv params ∧ after (step s) (fun t => t.reg 0x2#4) = some 0x07#8) :=
  ⟨⟨rfl, fun h => by cases h⟩, by decide⟩

/-- A wait that owes a tick, where dispatches come first. -/
theorem witness_StepKeepsWaitInvariant_owed :
    State.WaitInv (small .dispatchFirst) { State.reset with run := .waitKey 0x2#4 true } :=
  ⟨rfl, fun _ => ⟨rfl, rfl⟩⟩

theorem witness_ResetValues : 79 < 80 ∧ 0x50 ≤ 0x50 := by decide

theorem witness_LoadProgramCopies :
    (List.replicate 3584 0x00#8).length ≤ 3584 ∧ (List.replicate 3585 0x00#8).length > 3584 := by
  rw [List.length_replicate, List.length_replicate]
  decide

theorem witness_IdleStaysIdle : looping.idle ∧ after (step looping) (fun t => t.pc) = some 0x200#16 := by decide

end Sys2Proof.Tests
end

section
/-! PROOFS. Totality: the execute part of every instruction, the dispatcher step, the scheduler step and
the host's move each answer a next state (00_scope.md R11, 60_exceptions.md R104, R107). -/

namespace Sys2Proof.Machine

/-- A guarded instruction answers on both branches: its error is a state too (60_exceptions.md R105). -/
theorem guarded_answers (c : Prop) [Decidable c] (t : State) (e : Error) (i : Instr) (s : State) :
    ∃ u, (if c then .next t else raiseFrom e i s) = .next u := by
  by_cases h : c
  · exact ⟨t, if_pos h⟩
  · exact ⟨_, (if_neg h).trans (raiseFrom_eq e i s)⟩

theorem execRet_answers (s : State) : ∃ t, execRet s = .next t := by
  unfold execRet
  cases s.stack with
  | nil => exact ⟨_, raiseFrom_eq _ _ _⟩
  | cons a rest => exact ⟨_, rfl⟩

theorem execAddI_answers (x : Nibble) (s : State) : ∃ t, execAddI x s = .next t := by
  by_cases h : s.index.toNat + (s.reg x).toNat > 0xFFF
  · exact ⟨_, if_pos h⟩
  · exact ⟨_, if_neg h⟩

/-- Every instruction answers a next state: `00EE` on either stack, `Fx1E` for either sum, the guarded
arms on both branches; every other arm is a next state as it stands. -/
theorem exec_answers (i : Instr) (s : State) : ∃ t, exec i s = .next t := by
  cases i with
  | ret => exact execRet_answers s
  | addI x => exact execAddI_answers x s
  | call nnn => exact guarded_answers _ _ _ _ s
  | drw x y n => exact guarded_answers _ _ _ _ s
  | ldF x => exact guarded_answers _ _ _ _ s
  | ldB x => exact guarded_answers _ _ _ _ s
  | ldMemVx x => exact guarded_answers _ _ _ _ s
  | ldVxMem x => exact guarded_answers _ _ _ _ s
  | _ => exact ⟨_, rfl⟩

theorem dispatchStep_answers (s : State) : ∃ t, dispatchStep s = .next t := by
  obtain ⟨-, h⟩ | ⟨_, _, -, -, -, h⟩ | ⟨_, i, -, -, -, h⟩ := dispatchStep_cases s
  · exact ⟨_, h⟩
  · exact ⟨_, h⟩
  · exact h ▸ exec_answers i _

theorem onNext_answers {o : Host.Outcome State Fault Refusal} (h : ∃ t, o = .next t)
    (f : State → State) : ∃ t, onNext o f = .next t := by
  obtain ⟨t, rfl⟩ := h
  exact ⟨f t, onNext_next t f⟩

theorem fireActions_answers (o : SameStepOrder) (d t : Bool) (s : State) :
    ∃ u, fireActions o d t s = .next u := by
  obtain h | h | h | h | h := fireActions_cases o d t s
  · exact ⟨_, h⟩
  · exact ⟨_, h⟩
  · exact h ▸ dispatchStep_answers s
  · exact h ▸ onNext_answers (dispatchStep_answers s) tickAfterDispatch
  · exact h ▸ dispatchStep_answers (timerTick s)

theorem schedulerStep_answers (p : Params) (s : State) : ∃ t, schedulerStep p s = .next t := by
  cases h : s.run with
  | running => exact schedulerStep_running p h ▸ fireActions_answers _ _ _ _
  | waitKey x owed => exact ⟨s, schedulerStep_waitKey p h⟩
  | halted r => exact ⟨s, schedulerStep_halted p h⟩

theorem hostMove_answers (p : Params) (s : State) : ∃ t, hostMove p s = .next t := by
  cases h : s.run with
  | running => exact hostMove_running p h ▸ schedulerStep_answers p _
  | waitKey x owed => exact ⟨_, hostMove_waitKey p h⟩
  | halted r => exact ⟨s, hostMove_halted p h⟩

/-- Settles O52: a step is the host's move under the model's own parameters, and that answers under any. -/
theorem everyStepAnswers : Obligations.EveryStepAnswers := by
  unfold Obligations.EveryStepAnswers
  exact hostMove_answers params

end Sys2Proof.Machine
end

section
/-! PROOFS. What an instruction can do, said once: `Effect` lists the next states by kind, and the rules
about what an instruction leaves unchanged and the bounds that a step keeps are case splits over it. -/

namespace Sys2Proof.Machine

/-! ## The effects of an instruction -/

/-- The next states that the execute part of `i` can answer in `s`, by what it writes. Register writes are
those that `mayWriteReg` lists for `i`. -/
inductive Effect (s : State) (i : Instr) : State → Prop
  /-- An error (60_exceptions.md R105). -/
  | raises (e : Error) : Effect s i (s.setRun (.halted ⟨e, some (encode i), s.pc - 2#16⟩))
  /-- General registers only. -/
  | writesRegs {v : Vector Byte 16}
      (hv : ∀ z, mayWriteReg i z = false → State.reg { s with v := v } z = s.reg z) :
      Effect s i { s with v := v }
  | drawsByte {x : Nibble} {b : Byte} (hx : mayWriteReg i x = true) :
      Effect s i (s.drawRandom.setReg x b)
  | clears (hi : i = .cls) : Effect s i (s.setFb clearFrame).emitRedraw
  | drawsSprite {x y n : Nibble} {f : Frame} {b : Byte} (hi : i = .drw x y n) :
      Effect s i ((s.setFb f).setReg vf b).emitRedraw
  | returns {a : Word} {rest : List Word} (hi : i = .ret) (hs : s.stack = a :: rest) :
      Effect s i ((s.setStack rest).setPc a)
  | calls {nnn : Addr} (hi : i = .call nnn) (hs : s.stack.length < Config.stackDepth) :
      Effect s i ((s.setStack (s.pc :: s.stack)).setPc (addrOperand nnn))
  | jumps {w : Word} (hw : w.toNat ≤ 0x10FE) : Effect s i (s.setPc w)
  | skips (c : Bool) : Effect s i (s.skipIf c)
  | skipsOnKey (c : Bool) : Effect s i (s.askKey.skipIf c)
  | takesKey {x c : Nibble} (hi : i = .ldVxK x) : Effect s i (s.askKey.setReg x (keyByte c))
  | holds {x : Nibble} (hi : i = .ldVxK x) : Effect s i (s.askKey.setRun (.waitKey x false))
  | setsIndex {w : Word}
      (hi : (∃ nnn, i = .ldI nnn) ∨ (∃ x, i = .addI x) ∨ ∃ x, i = .ldF x) (hw : w.toNat ≤ 0xFFF) :
      Effect s i (s.setIndex w)
  | wrapsIndex {x : Nibble} {w : Word} (hi : i = .addI x) (hw : w.toNat ≤ 0xFFF) :
      Effect s i ((s.setIndex w).setReg vf 0x01#8)
  | stores {bs : List Byte} (hn : bs.length = storeLength i)
      (ha : s.index.toNat + bs.length ≤ Config.memSize) : Effect s i (s.store s.index.toNat bs)
  | setsDt {x : Nibble} (hi : i = .ldDtVx x) : Effect s i (s.setDt (s.reg x))
  | setsSt {x : Nibble} (hi : i = .ldStVx x) : Effect s i (s.setSt (s.reg x))

/-- A write of a register that `i` may write leaves every register that it may not. -/
theorem reg_setReg_of_not_mayWriteReg {i : Instr} {x z : Nibble} (hx : mayWriteReg i x = true)
    (hz : mayWriteReg i z = false) (s : State) (b : Byte) : (s.setReg x b).reg z = s.reg z := by
  have hne : z ≠ x := by
    rintro rfl
    exact Bool.noConfusion (hx.symm.trans hz)
  rw [State.reg_setReg, if_neg hne]

theorem Effect.setReg {s : State} {i : Instr} {x : Nibble} (hi : ∀ z, mayWriteReg i z = (z == x))
    (b : Byte) : Effect s i (s.setReg x b) :=
  .writesRegs fun _ hz => reg_setReg_of_not_mayWriteReg (by simp [hi]) hz s b

theorem Effect.setRegFlag {s : State} {i : Instr} {x : Nibble}
    (hi : ∀ z, mayWriteReg i z = (z == x || z == vf)) (b f : Byte) : Effect s i (s.setRegFlag x b f) :=
  .writesRegs fun _ hz => (reg_setReg_of_not_mayWriteReg (by simp [hi]) hz (s.setReg x b) f).trans
    (reg_setReg_of_not_mayWriteReg (by simp [hi]) hz s b)

/-- `Fx65` writes `V0` to `V[x]` and no register above (45_index_memory.md R98). -/
theorem Effect.loads (s : State) (x : Nibble) :
    Effect s (.ldVxMem x) (s.setRegsFrom 0 (s.mem.readBytes s.index.toNat (x.toNat + 1))) := by
  rw [State.setRegsFrom_frame]
  refine .writesRegs fun z hz => ?_
  have hxz : x.toNat < z.toNat := by simpa [mayWriteReg] using hz
  rw [← State.setRegsFrom_frame, State.reg_setRegsFrom _ (by simp; omega), dif_neg (by simp; omega)]

/-! ## Each instruction has one of the effects -/

/-- A guarded instruction has its effect where the guard holds, and raises where it does not. -/
theorem guarded_effect {c : Prop} [Decidable c] {s t : State} {i : Instr} (e : Error)
    (h : c → Effect s i t) :
    ∃ u, (if c then .next t else raiseFrom e i s) = .next u ∧ Effect s i u := by
  by_cases hc : c
  · exact ⟨t, if_pos hc, h hc⟩
  · exact ⟨_, (if_neg hc).trans (raiseFrom_eq e i s), .raises e⟩

theorem execRet_nil {s : State} (h : s.stack = []) : execRet s = raiseFrom .stackUnderflow .ret s := by
  simp [execRet, h]

theorem execRet_cons {s : State} {a : Word} {rest : List Word} (h : s.stack = a :: rest) :
    execRet s = .next ((s.setStack rest).setPc a) := by
  simp [execRet, h]

theorem execRet_effect (s : State) : ∃ t, execRet s = .next t ∧ Effect s .ret t := by
  cases h : s.stack with
  | nil => exact ⟨_, execRet_nil h, .raises _⟩
  | cons a rest => exact ⟨_, execRet_cons h, .returns rfl h⟩

theorem execLdVxK_none {s : State} (h : s.keyAnswer = none) (x : Nibble) :
    execLdVxK x s = .next (s.askKey.setRun (.waitKey x false)) := by
  simp [execLdVxK, h]

theorem execLdVxK_some {s : State} {c : Nibble} (h : s.keyAnswer = some c) (x : Nibble) :
    execLdVxK x s = .next (s.askKey.setReg x (keyByte c)) := by
  simp [execLdVxK, h]

theorem execLdVxK_effect (x : Nibble) (s : State) :
    ∃ t, execLdVxK x s = .next t ∧ Effect s (.ldVxK x) t := by
  cases h : s.keyAnswer with
  | none => exact ⟨_, execLdVxK_none h x, .holds rfl⟩
  | some c => exact ⟨_, execLdVxK_some h x, .takesKey rfl⟩

/-- Either sum of `Fx1E` leaves `I` at most 0xFFF (45_index_memory.md R94). -/
theorem execAddI_effect (x : Nibble) (s : State) :
    ∃ t, execAddI x s = .next t ∧ Effect s (.addI x) t := by
  by_cases h : s.index.toNat + (s.reg x).toNat > 0xFFF
  · refine ⟨_, if_pos h, .wrapsIndex rfl ?_⟩
    rw [BitVec.toNat_ofNat]
    omega
  · refine ⟨_, if_neg h, .setsIndex (.inr (.inl ⟨x, rfl⟩)) ?_⟩
    rw [BitVec.toNat_ofNat]
    omega

theorem addrOperand_toNat_le (nnn : Addr) : (addrOperand nnn).toNat ≤ 0xFFF := by
  have := nnn.isLt
  simp only [addrOperand, BitVec.toNat_setWidth]
  omega

/-- The highest target of `Bnnn` is 0xFFF + 0xFF (10_state.md R17, 42_control.md R72). -/
theorem addrOperand_add_regOffset_toNat_le (nnn : Addr) (b : Byte) :
    (addrOperand nnn + regOffset b).toNat ≤ 0x10FE := by
  have := addrOperand_toNat_le nnn
  have := b.isLt
  simp only [regOffset, BitVec.toNat_add, BitVec.toNat_setWidth]
  omega

/-- Every instruction answers with one of the effects. -/
theorem exec_effect (i : Instr) (s : State) : ∃ t, exec i s = .next t ∧ Effect s i t := by
  cases i with
  | cls => exact ⟨_, rfl, .clears rfl⟩
  | ret => exact execRet_effect s
  | jp nnn => exact ⟨_, rfl, .jumps ((addrOperand_toNat_le nnn).trans (by decide))⟩
  | call nnn => exact guarded_effect _ fun h => .calls rfl h
  | seImm x nn => exact ⟨_, rfl, .skips _⟩
  | sneImm x nn => exact ⟨_, rfl, .skips _⟩
  | seReg x y => exact ⟨_, rfl, .skips _⟩
  | sneReg x y => exact ⟨_, rfl, .skips _⟩
  | ldImm x nn => exact ⟨_, rfl, .setReg (fun _ => rfl) _⟩
  | addImm x nn => exact ⟨_, rfl, .setReg (fun _ => rfl) _⟩
  | ldReg x y => exact ⟨_, rfl, .setReg (fun _ => rfl) _⟩
  | orReg x y => exact ⟨_, rfl, .setReg (fun _ => rfl) _⟩
  | andReg x y => exact ⟨_, rfl, .setReg (fun _ => rfl) _⟩
  | xorReg x y => exact ⟨_, rfl, .setReg (fun _ => rfl) _⟩
  | ldVxDt x => exact ⟨_, rfl, .setReg (fun _ => rfl) _⟩
  | addReg x y => exact ⟨_, rfl, .setRegFlag (fun _ => rfl) _ _⟩
  | subReg x y => exact ⟨_, rfl, .setRegFlag (fun _ => rfl) _ _⟩
  | shr x y => exact ⟨_, rfl, .setRegFlag (fun _ => rfl) _ _⟩
  | shl x y => exact ⟨_, rfl, .setRegFlag (fun _ => rfl) _ _⟩
  | ldI nnn => exact ⟨_, rfl, .setsIndex (.inl ⟨nnn, rfl⟩) (addrOperand_toNat_le nnn)⟩
  | jpV0 nnn => exact ⟨_, rfl, .jumps (addrOperand_add_regOffset_toNat_le nnn _)⟩
  | rnd x nn => exact ⟨_, rfl, .drawsByte (by simp [mayWriteReg])⟩
  | drw x y n => exact guarded_effect _ fun _ => .drawsSprite rfl
  | skp x => exact ⟨_, rfl, .skipsOnKey _⟩
  | sknp x => exact ⟨_, rfl, .skipsOnKey _⟩
  | ldVxK x => exact execLdVxK_effect x s
  | ldDtVx x => exact ⟨_, rfl, .setsDt rfl⟩
  | ldStVx x => exact ⟨_, rfl, .setsSt rfl⟩
  | addI x => exact execAddI_effect x s
  | ldF x =>
    exact guarded_effect _ fun h => .setsIndex (.inr (.inr ⟨x, rfl⟩)) (by rw [glyphAddress_toNat h]; omega)
  | ldB x => exact guarded_effect _ fun h => .stores rfl (by simpa [inRange_iff] using h)
  | ldMemVx x =>
    exact guarded_effect _ fun h => .stores (length_regsUpTo s x) (by simpa [inRange_iff] using h)
  | ldVxMem x => exact guarded_effect _ fun _ => .loads s x

/-- What an instruction answers is one of its effects. -/
theorem effect_of_exec {i : Instr} {s t : State} (h : exec i s = .next t) : Effect s i t := by
  obtain ⟨u, hu, e⟩ := exec_effect i s
  exact Host.Outcome.next.inj (hu.symm.trans h) ▸ e

/-! ## What each effect leaves unchanged -/

theorem Effect.reg_eq {s t : State} {i : Instr} (e : Effect s i t) {z : Nibble}
    (hz : mayWriteReg i z = false) : t.reg z = s.reg z := by
  cases e with
  | writesRegs hv => exact hv z hz
  | drawsByte hx => exact reg_setReg_of_not_mayWriteReg hx hz s.drawRandom _
  | drawsSprite hi => exact reg_setReg_of_not_mayWriteReg (by simp [hi, mayWriteReg]) hz (s.setFb _) _
  | takesKey hi => exact reg_setReg_of_not_mayWriteReg (by simp [hi, mayWriteReg]) hz s.askKey _
  | wrapsIndex hi => exact reg_setReg_of_not_mayWriteReg (by simp [hi, mayWriteReg]) hz (s.setIndex _) _
  | _ => rfl

theorem Effect.fb_changes {s t : State} {i : Instr} (e : Effect s i t) (h : t.fb ≠ s.fb) :
    i = .cls ∨ ∃ x y n, i = .drw x y n := by
  cases e with
  | clears hi => exact .inl hi
  | drawsSprite hi => exact .inr ⟨_, _, _, hi⟩
  | _ => exact absurd rfl h

theorem Effect.stack_changes {s t : State} {i : Instr} (e : Effect s i t) (h : t.stack ≠ s.stack) :
    i = .ret ∨ ∃ nnn, i = .call nnn := by
  cases e with
  | returns hi => exact .inl hi
  | calls hi => exact .inr ⟨_, hi⟩
  | _ => exact absurd rfl h

theorem Effect.index_changes {s t : State} {i : Instr} (e : Effect s i t) (h : t.index ≠ s.index) :
    (∃ nnn, i = .ldI nnn) ∨ (∃ x, i = .addI x) ∨ ∃ x, i = .ldF x := by
  cases e with
  | setsIndex hi => exact hi
  | wrapsIndex hi => exact .inr (.inl ⟨_, hi⟩)
  | _ => exact absurd rfl h

theorem Effect.dt_changes {s t : State} {i : Instr} (e : Effect s i t) (h : t.dt ≠ s.dt) :
    ∃ x, i = .ldDtVx x := by
  cases e with
  | setsDt hi => exact ⟨_, hi⟩
  | _ => exact absurd rfl h

theorem Effect.st_changes {s t : State} {i : Instr} (e : Effect s i t) (h : t.st ≠ s.st) :
    ∃ x, i = .ldStVx x := by
  cases e with
  | setsSt hi => exact ⟨_, hi⟩
  | _ => exact absurd rfl h

theorem Effect.audio_acc_eq {s t : State} {i : Instr} (e : Effect s i t) :
    t.audioOn = s.audioOn ∧ t.accD = s.accD ∧ t.accT = s.accT := by
  cases e <;> exact ⟨rfl, rfl, rfl⟩

/-- Settles O46: every effect writes only registers that the instruction may write. -/
theorem onlyListedRegistersChange : Obligations.OnlyListedRegistersChange := by
  unfold Obligations.OnlyListedRegistersChange
  intro i s t h z hz
  exact (effect_of_exec h).reg_eq hz

/-- Settles O48, one field at a time. -/
theorem onlyNamedInstructionsChangeTheRest : Obligations.OnlyNamedInstructionsChangeTheRest := by
  unfold Obligations.OnlyNamedInstructionsChangeTheRest
  intro i s t h
  have e := effect_of_exec h
  exact ⟨e.fb_changes, e.stack_changes, e.index_changes, e.dt_changes, e.st_changes, e.audio_acc_eq⟩

end Sys2Proof.Machine
end

section
/-! PROOFS. The bounds of the reachable states: reset meets them, and every step keeps them (10_state.md
R17, R19, R21; 20_memory.md R28; 60_exceptions.md R115). -/

namespace Sys2Proof.Machine

/-- A skip adds at most 2 to the advanced `pc`. -/
theorem State.skipIf_pc_toNat_le {s : State} (h : s.pc.toNat ≤ 0x1000) (c : Bool) :
    (s.skipIf c).pc.toNat ≤ 0x10FE := by
  cases c with
  | false => exact h.trans (by decide)
  | true =>
    simp only [State.skipIf_eq, State.setPc_pc, if_true, BitVec.toNat_add, BitVec.toNat_ofNat]
    omega

/-- Every effect keeps the bounds, where the instruction was fetched from within the bank: then the
advanced `pc`, which a call pushes and a skip adds to, is at most 0x1000. -/
theorem Effect.inv {p : Params} {s t : State} {i : Instr} (e : Effect s i t) (h : s.Inv p)
    (hpc : s.pc.toNat ≤ 0x1000) : t.Inv p := by
  obtain ⟨hmem, hindex, hdepth, hstack, hpc', hacc⟩ := h
  cases e with
  | returns _ hs =>
    rw [hs] at hdepth hstack
    obtain ⟨ha, hrest⟩ := List.forall_mem_cons.mp hstack
    exact ⟨hmem, hindex, (Nat.le_succ _).trans hdepth, hrest, ha.trans (by decide), hacc⟩
  | calls _ hs =>
    exact ⟨hmem, hindex, hs, List.forall_mem_cons.mpr ⟨hpc, hstack⟩,
      (addrOperand_toNat_le _).trans (by decide), hacc⟩
  | jumps hw => exact ⟨hmem, hindex, hdepth, hstack, hw, hacc⟩
  | skips c => exact ⟨hmem, hindex, hdepth, hstack, State.skipIf_pc_toNat_le hpc c, hacc⟩
  | skipsOnKey c =>
    exact ⟨hmem, hindex, hdepth, hstack, State.skipIf_pc_toNat_le (s := s.askKey) hpc c, hacc⟩
  | setsIndex _ hw => exact ⟨hmem, hw, hdepth, hstack, hpc', hacc⟩
  | wrapsIndex _ hw => exact ⟨hmem, hw, hdepth, hstack, hpc', hacc⟩
  | stores _ ha => exact ⟨Memory.wf_writeBytes hmem ha, hindex, hdepth, hstack, hpc', hacc⟩
  | _ => exact ⟨hmem, hindex, hdepth, hstack, hpc', hacc⟩

theorem State.Inv.setPc {p : Params} {s : State} (h : s.Inv p) {w : Word} (hw : w.toNat ≤ 0x10FE) :
    (s.setPc w).Inv p := by
  obtain ⟨hmem, hindex, hdepth, hstack, -, hacc⟩ := h
  exact ⟨hmem, hindex, hdepth, hstack, hw, hacc⟩

theorem State.Inv.setAcc {p : Params} {s : State} (h : s.Inv p) {d a : Nat} (hd : d ≤ p.decodeInterval)
    (ha : a ≤ p.timerInterval) : (s.setAcc d a).Inv p := by
  obtain ⟨hmem, hindex, hdepth, hstack, hpc, -⟩ := h
  exact ⟨hmem, hindex, hdepth, hstack, hpc, hd, ha⟩

/-- The bounds do not speak of `run`. -/
theorem State.Inv.setRun {p : Params} {s : State} (h : s.Inv p) (r : Run) : (s.setRun r).Inv p := h

/-- The bounds do not speak of the timers or the audio level. -/
theorem State.Inv.timerTick {p : Params} {s : State} (h : s.Inv p) : (timerTick s).Inv p := h

theorem State.Inv.dispatchStep {p : Params} {s t : State} (h : s.Inv p)
    (hd : dispatchStep s = .next t) : t.Inv p := by
  obtain ⟨-, hs⟩ | ⟨w, r, -, -, hpc, hs⟩ | ⟨w, i, -, -, hpc, hs⟩ := dispatchStep_cases s
  · obtain rfl := Host.Outcome.next.inj (hs.symm.trans hd)
    exact h.setRun _
  all_goals
    have hpc2 : (s.pc + 2#16).toNat ≤ 0x1000 := by
      rw [pc_add_two_toNat hpc]
      omega
    have hadvanced := h.setPc (hpc2.trans (by decide))
  · obtain rfl := Host.Outcome.next.inj (hs.symm.trans hd)
    exact hadvanced.setRun _
  · exact (effect_of_exec (hs.symm.trans hd)).inv hadvanced hpc2

theorem State.Inv.tickAfterDispatch {p : Params} {s : State} (h : s.Inv p) :
    (tickAfterDispatch s).Inv p := by
  cases hr : s.run with
  | running => exact tickAfterDispatch_running hr ▸ h.timerTick
  | waitKey x owed => exact tickAfterDispatch_waitKey hr ▸ h.setRun _
  | halted r => rwa [tickAfterDispatch_halted hr]

theorem State.Inv.fireActions {p : Params} {s t : State} (h : s.Inv p) {o : SameStepOrder}
    {fd ft : Bool} (hf : fireActions o fd ft s = .next t) : t.Inv p := by
  obtain hs | hs | hs | hs | hs := fireActions_cases o fd ft s
  · exact Host.Outcome.next.inj (hs.symm.trans hf) ▸ h
  · exact Host.Outcome.next.inj (hs.symm.trans hf) ▸ h.timerTick
  · exact h.dispatchStep (hs.symm.trans hf)
  · obtain ⟨u, hu, rfl⟩ := onNext_eq_next (hs.symm.trans hf)
    exact (h.dispatchStep hu).tickAfterDispatch
  · exact h.timerTick.dispatchStep (hs.symm.trans hf)

/-- An accumulator that fires is reset, and one that does not is at most its interval (R115). -/
theorem State.Inv.advanceAcc {p : Params} {s : State} (h : s.Inv p) : (advanceAcc p s).Inv p := by
  apply h.setAcc
  · simp only [firesDispatch, decide_eq_true_eq]
    split <;> omega
  · simp only [firesTick, decide_eq_true_eq]
    split <;> omega

theorem State.Inv.schedulerStep {p : Params} {s t : State} (h : s.Inv p)
    (hs : schedulerStep p s = .next t) : t.Inv p := by
  cases hr : s.run with
  | running => exact h.advanceAcc.fireActions ((schedulerStep_running p hr).symm.trans hs)
  | waitKey x owed => exact Host.Outcome.next.inj ((schedulerStep_waitKey p hr).symm.trans hs) ▸ h
  | halted r => exact Host.Outcome.next.inj ((schedulerStep_halted p hr).symm.trans hs) ▸ h

/-- The idle steps of an event step end at or below both intervals (R117). -/
theorem State.Inv.skipIdle {p : Params} {s : State} (h : s.Inv p) :
    (skipIdle (idleSteps p s) s).Inv p := by
  have ⟨_, _, _, _, _, haccD, haccT⟩ := h
  apply h.setAcc <;> (simp only [idleSteps]; omega)

theorem State.Inv.keyPoll {p : Params} {s : State} (h : s.Inv p) (x : Nibble) (owed : Bool) :
    (keyPoll x owed s).Inv p := by
  cases hk : s.keyAnswer with
  | none => exact keyPoll_none hk x owed ▸ h
  | some c =>
    rw [keyPoll_some hk]
    cases owed <;> exact h

theorem State.Inv.hostMove {p : Params} {s t : State} (h : s.Inv p) (hm : hostMove p s = .next t) :
    t.Inv p := by
  cases hr : s.run with
  | running => exact h.skipIdle.schedulerStep ((hostMove_running p hr).symm.trans hm)
  | waitKey x owed => exact Host.Outcome.next.inj ((hostMove_waitKey p hr).symm.trans hm) ▸ h.keyPoll x owed
  | halted r => exact Host.Outcome.next.inj ((hostMove_halted p hr).symm.trans hm) ▸ h

/-- Settles O53: a step is the host's move under the model's own parameters. -/
theorem stepKeepsInvariant : Obligations.StepKeepsInvariant := by
  unfold Obligations.StepKeepsInvariant
  exact ⟨fun _ _ _ h => h.hostMove, fun _ _ h => h.hostMove⟩

theorem State.inv_initialize (font : Font) (p : Params) : (State.initialize font).Inv p :=
  ⟨Memory.wf_nil font, Nat.zero_le _, Nat.zero_le _, nofun, (by decide : 0x200 ≤ 0x10FE), Nat.zero_le _,
    Nat.zero_le _⟩

/-- Reset leaves the core running, so no key wait holds. -/
theorem State.waitInv_initialize (font : Font) (p : Params) : (State.initialize font).WaitInv p := trivial

/-- Settles O55. -/
theorem resetMeetsInvariants : Obligations.ResetMeetsInvariants := by
  unfold Obligations.ResetMeetsInvariants
  exact ⟨fun font p => ⟨State.inv_initialize font p, State.waitInv_initialize font p⟩,
    fun p => ⟨State.inv_initialize _ p, State.waitInv_initialize _ p⟩⟩

end Sys2Proof.Machine
end

section
/-! PROOFS. The values reset leaves (10_state.md R26, 70_reset_and_hazards.md R131). -/

namespace Sys2Proof.Machine

/-- Nothing is listed after reset, so every address reads as `initialize()` left it. -/
theorem Memory.read_initialize (font : Font) (a : Nat) :
    (State.initialize font).mem.read a = resetByte font a := rfl

theorem State.reg_initialize (font : Font) (i : Nibble) : (State.initialize font).reg i = 0x00#8 := by
  simp [State.reg, State.initialize]

/-- Reset leaves the framebuffer as `clear()` does. -/
theorem State.initialize_fb (font : Font) : (State.initialize font).fb = clearFrame := rfl

/-- Settles O56: memory, registers and rows by their lemmas, every other field as `initialize()` writes it. -/
theorem resetValues : Obligations.ResetValues := by
  unfold Obligations.ResetValues
  refine ⟨rfl, fun font => ⟨rfl, fun k hk => ?_, fun a ha => ?_, State.reg_initialize font, rfl, rfl,
    fun r => ?_, rfl, rfl, rfl, rfl, rfl, rfl⟩⟩
  · rw [Memory.read_initialize, resetByte_of_lt font hk]
  · rw [Memory.read_initialize, resetByte_of_ge font ha]
  · rw [State.initialize_fb, Frame.row_clearFrame]

end Sys2Proof.Machine
end

section
/-! PROOFS. Noninterference: no instruction reads the accumulators, the audio level or `ST` (10_state.md
R20, R25). -/

namespace Sys2Proof.Machine

/-- `s` with the fields that no instruction reads changed: the accumulators, the audio level and `ST`. -/
def State.mapUnread (fd fa : Nat → Nat) (fon : Bool → Bool) (fst : Byte → Byte) (s : State) : State :=
  { s with accD := fd s.accD, accT := fa s.accT, audioOn := fon s.audioOn, st := fst s.st }

section
variable (fd fa : Nat → Nat) (fon : Bool → Bool) (fst : Byte → Byte)

theorem State.setRegsFrom_mapUnread (s : State) (k : Nat) (bs : List Byte) :
    (s.mapUnread fd fa fon fst).setRegsFrom k bs = (s.setRegsFrom k bs).mapUnread fd fa fon fst := by
  induction bs generalizing s k with
  | nil => rfl
  | cons b rest ih => exact ih (s.setReg (BitVec.ofNat 4 k) b) (k + 1)

theorem execRet_mapUnread (s : State) :
    execRet (s.mapUnread fd fa fon fst) = onNext (execRet s) (State.mapUnread fd fa fon fst) := by
  have hs : (s.mapUnread fd fa fon fst).stack = s.stack := rfl
  cases h : s.stack with
  | nil => rw [execRet_nil h, execRet_nil (hs.trans h)]; rfl
  | cons a rest => rw [execRet_cons h, execRet_cons (hs.trans h)]; rfl

theorem execLdVxK_mapUnread (x : Nibble) (s : State) :
    execLdVxK x (s.mapUnread fd fa fon fst) = onNext (execLdVxK x s) (State.mapUnread fd fa fon fst) := by
  have hk : (s.mapUnread fd fa fon fst).keyAnswer = s.keyAnswer := rfl
  cases h : s.keyAnswer with
  | none => rw [execLdVxK_none h, execLdVxK_none (hk.trans h)]; rfl
  | some c => rw [execLdVxK_some h, execLdVxK_some (hk.trans h)]; rfl

/-- A guarded instruction commutes with a change of the state where both its branches do. -/
theorem onNext_ite {c : Prop} {_ : Decidable c} (o o' : Host.Outcome State Fault Refusal)
    (f : State → State) : onNext (if c then o else o') f = if c then onNext o f else onNext o' f :=
  apply_ite (onNext · f) c o o'

/-- The execute part commutes with a change of the fields that no instruction reads; `ST` may change only
where the instruction does not write it. -/
theorem exec_mapUnread (i : Instr) (hst : ∀ x, i = .ldStVx x → ∀ b, fst b = b) (s : State) :
    exec i (s.mapUnread fd fa fon fst) = onNext (exec i s) (State.mapUnread fd fa fon fst) := by
  cases i with
  | ret => exact execRet_mapUnread fd fa fon fst s
  | ldVxK x => exact execLdVxK_mapUnread fd fa fon fst x s
  | ldStVx x => simp [exec, execLdStVx, State.mapUnread, State.setSt, hst x rfl, State.reg]
  | ldVxMem x =>
    refine Eq.trans ?_ (Eq.symm (onNext_ite _ _ _))
    rw [onNext_next, ← State.setRegsFrom_mapUnread]
    rfl
  | call nnn => exact Eq.symm (onNext_ite _ _ _)
  | drw x y n => exact Eq.symm (onNext_ite _ _ _)
  | addI x => exact Eq.symm (onNext_ite _ _ _)
  | ldF x => exact Eq.symm (onNext_ite _ _ _)
  | ldB x => exact Eq.symm (onNext_ite _ _ _)
  | ldMemVx x => exact Eq.symm (onNext_ite _ _ _)
  | _ => rfl

end

/-- Settles O51: both halves are the one lemma, for constant changes of the fields they name. -/
theorem accumulatorsAndSoundAreNotRead : Obligations.AccumulatorsAndSoundAreNotRead := by
  unfold Obligations.AccumulatorsAndSoundAreNotRead
  intro i s d a on
  exact ⟨exec_mapUnread (fun _ => d) (fun _ => a) (fun _ => on) id i (fun _ _ _ => rfl) s,
    fun b hi => exec_mapUnread id id id (fun _ => b) i (fun x hx => absurd hx (hi x)) s⟩

end Sys2Proof.Machine
end

section
/-! PROOFS. Memory: which bytes an instruction writes (20_memory.md R28, R30, R40), that a store is seen by
the next fetch (R38), and the fault of a data access past the bank (R31). -/

namespace Sys2Proof.Machine

/-! ## Stores over the instruction stream -/

/-- A register stored by `Fx55` is read back at its place in the block (45_index_memory.md R97). -/
theorem Memory.read_writeBytes_regsUpTo (m : Memory) (a : Nat) (s : State) {x k : Nibble}
    (hk : k.toNat ≤ x.toNat) : (m.writeBytes a (regsUpTo s x)).read (a + k.toNat) = s.reg k := by
  have hlt : k.toNat < (regsUpTo s x).length := by
    rw [length_regsUpTo]
    omega
  rw [Memory.read_writeBytes_getElem hlt, getElem_regsUpTo, BitVec.ofNat_toNat, BitVec.setWidth_eq]

@[simp] theorem State.store_pc (s : State) (a : Nat) (bs : List Byte) : (s.store a bs).pc = s.pc := rfl

/-- `Fx55` whose bytes lie in the bank stores (45_index_memory.md R97). -/
theorem exec_ldMemVx_of_le {s : State} {x : Nibble} (h : s.index.toNat + x.toNat ≤ 0xFFF) :
    exec (.ldMemVx x) s = .next (s.store s.index.toNat (regsUpTo s x)) :=
  if_pos ((inRange_iff _ _).mpr (.inr (by omega)))

/-- Settles O37: the fetch reads the first two bytes of the block just stored. -/
theorem storeIsSeenByNextFetch : Obligations.StoreIsSeenByNextFetch := by
  unfold Obligations.StoreIsSeenByNextFetch
  intro x s hI hx hbank
  refine ⟨_, exec_ldMemVx_of_le hbank, ?_⟩
  rw [hI] at hbank ⊢
  have hV0 : (s.mem.writeBytes s.pc.toNat (regsUpTo s x)).read s.pc.toNat = s.reg 0x0#4 :=
    Memory.read_writeBytes_regsUpTo _ _ s (k := 0x0#4) (Nat.zero_le _)
  have hV1 : (s.mem.writeBytes s.pc.toNat (regsUpTo s x)).read (s.pc.toNat + 1) = s.reg 0x1#4 :=
    Memory.read_writeBytes_regsUpTo _ _ s (k := 0x1#4) hx
  rw [State.fetchWord_eq_some (by rw [State.store_pc]; omega), State.store_mem, State.store_pc, hV0, hV1]

/-! ## What an instruction writes to memory -/

/-- An effect leaves memory as it was, or writes as many bytes from `I` on as its instruction stores. -/
theorem Effect.mem_cases {s t : State} {i : Instr} (e : Effect s i t) :
    t.mem = s.mem ∨
      ∃ bs : List Byte, bs.length = storeLength i ∧ t.mem = s.mem.writeBytes s.index.toNat bs := by
  cases e with
  | stores hn => exact .inr ⟨_, hn, rfl⟩
  | _ => exact .inl rfl

/-- Settles O47: in both cases of `Effect.mem_cases`, each clause is a law of `writeBytes`. -/
theorem onlyStoresWriteMemory : Obligations.OnlyStoresWriteMemory := by
  unfold Obligations.OnlyStoresWriteMemory
  intro i s t h
  obtain hm | ⟨bs, hn, hm⟩ := (effect_of_exec h).mem_cases
  · rw [hm]
    exact ⟨fun _ => rfl, fun _ _ => rfl, rfl⟩
  · rw [hm, ← hn]
    refine ⟨fun h0 => ?_, fun a ha => ?_, Memory.font_writeBytes _ _ _⟩
    · rw [List.length_eq_zero_iff.mp h0, Memory.writeBytes]
    · obtain hlt | hge := ha
      · exact Memory.read_writeBytes_of_lt hlt
      · exact Memory.read_writeBytes_of_ge hge

/-! ## Data accesses past the bank -/

/-- A guarded instruction whose guard fails halts with its own word and address, and changes nothing else
(60_exceptions.md R105). -/
theorem guarded_haltsWith {c : Prop} [Decidable c] (hc : ¬c) (t : State) (e : Error) (i : Instr)
    (s : State) :
    ∃ u, (if c then .next t else raiseFrom e i s) = .next u ∧
      HaltsWith s u e (some (encode i)) (s.pc - 2#16) :=
  ⟨_, (if_neg hc).trans (raiseFrom_eq e i s), rfl, rfl⟩

theorem not_inRange_of_gt {a n : Nat} (hn : 0 < n) (h : a + n > 0x1000) : ¬inRange a n = true := by
  rw [inRange_iff]
  omega

/-- Settles O35: each of the four instructions guards its access by `inRange`, which fails here. -/
theorem accessPastTheBankFaults : Obligations.AccessPastTheBankFaults := by
  unfold Obligations.AccessPastTheBankFaults
  intro s i length hi hpos hpast
  have hout := not_inRange_of_gt hpos hpast
  obtain ⟨x, y, n, rfl, rfl⟩ | ⟨x, rfl, rfl⟩ | ⟨x, rfl | rfl, rfl⟩ := hi
  · exact guarded_haltsWith hout _ _ (.drw x y n) s
  · exact guarded_haltsWith hout _ _ (.ldB x) s
  · exact guarded_haltsWith hout _ _ (.ldMemVx x) s
  · exact guarded_haltsWith hout _ _ (.ldVxMem x) s

end Sys2Proof.Machine
end

section
/-! PROOFS. Decoding and encoding (30_encoding.md R41 to R51): decoding inverts encoding, every legal word is
the word of an instruction, every other word is rejected, and the opcode map counts the legal words. -/

namespace Sys2Proof

/-! ## Decoding inverts encoding -/

/-- The decoder reads the family and then the function digits that the encoder wrote (30_encoding.md R45). -/
theorem decode_encode (i : Instr) : decode (encode i) = .ok i := by
  cases i with
  | cls => decide
  | ret => decide
  | _ => simp [encode, decode, decodeRegCompare, decodeFamily8, decodeFamilyE, decodeFamilyF]

theorem decode_of_encode_eq {i : Instr} {w : Word} (h : encode i = w) : decode w = .ok i :=
  h ▸ decode_encode i

/-- Settles O2: the byte-list decoder decodes the word that its first two bytes hold. -/
theorem decodeEncodeRoundTrip : Obligations.DecodeEncodeRoundTrip := by
  unfold Obligations.DecodeEncodeRoundTrip
  intro i rest
  exact ⟨decode_encode i, by rw [decodeBytes_bytesOfWord, decode_encode]⟩

/-! ## The legal words, family by family -/

/-- The families that hold no illegal word (30_encoding.md R46). -/
def openFamilies : List Nibble :=
  [0x1#4, 0x2#4, 0x3#4, 0x4#4, 0x6#4, 0x7#4, 0xA#4, 0xB#4, 0xC#4, 0xD#4]

theorem family_cases (f : Nibble) :
    f ∈ openFamilies ∨ f = 0x0#4 ∨ f = 0x5#4 ∨ f = 0x8#4 ∨ f = 0x9#4 ∨ f = 0xE#4 ∨ f = 0xF#4 := by
  revert f
  decide

section
variable {w : Word}

theorem wellFormedWord_open (h : fieldFamily w ∈ openFamilies) : wellFormedWord w = true := by
  simp only [openFamilies, List.mem_cons, List.not_mem_nil, or_false] at h
  rcases h with h | h | h | h | h | h | h | h | h | h <;> simp [Laws.wellFormedWord_fields, h]

theorem wellFormedWord_family0 (h : fieldFamily w = 0x0#4) :
    wellFormedWord w = true ↔ w = 0x00E0#16 ∨ w = 0x00EE#16 := by
  simp [Laws.wellFormedWord_fields, h]

theorem wellFormedWord_family5 (h : fieldFamily w = 0x5#4) :
    wellFormedWord w = true ↔ fieldN w = 0x0#4 := by
  simp [Laws.wellFormedWord_fields, h]

theorem wellFormedWord_family8 (h : fieldFamily w = 0x8#4) :
    wellFormedWord w = true ↔ fieldN w ∈ family8Functions := by
  simp [Laws.wellFormedWord_fields, h]

theorem wellFormedWord_family9 (h : fieldFamily w = 0x9#4) :
    wellFormedWord w = true ↔ fieldN w = 0x0#4 := by
  simp [Laws.wellFormedWord_fields, h]

theorem wellFormedWord_familyE (h : fieldFamily w = 0xE#4) :
    wellFormedWord w = true ↔ fieldNN w ∈ familyEFunctions := by
  simp [Laws.wellFormedWord_fields, h]

theorem wellFormedWord_familyF (h : fieldFamily w = 0xF#4) :
    wellFormedWord w = true ↔ fieldNN w ∈ familyFFunctions := by
  simp [Laws.wellFormedWord_fields, h]

/-! ## Every legal word is the word of an instruction -/

theorem append_nnn_eq {f : Nibble} (h : fieldFamily w = f) : f ++ fieldNNN w = w :=
  h ▸ (word_eq_nnn w).symm

theorem append_xnn_eq {f : Nibble} (h : fieldFamily w = f) : f ++ fieldX w ++ fieldNN w = w :=
  h ▸ (word_eq_xnn w).symm

theorem append_xyn_eq {f : Nibble} (h : fieldFamily w = f) :
    f ++ fieldX w ++ fieldY w ++ fieldN w = w :=
  h ▸ (word_eq_xyn w).symm

theorem exists_encode_open (h : fieldFamily w ∈ openFamilies) : ∃ i, encode i = w := by
  simp only [openFamilies, List.mem_cons, List.not_mem_nil, or_false] at h
  rcases h with h | h | h | h | h | h | h | h | h | h
  · exact ⟨.jp (fieldNNN w), append_nnn_eq h⟩
  · exact ⟨.call (fieldNNN w), append_nnn_eq h⟩
  · exact ⟨.seImm (fieldX w) (fieldNN w), append_xnn_eq h⟩
  · exact ⟨.sneImm (fieldX w) (fieldNN w), append_xnn_eq h⟩
  · exact ⟨.ldImm (fieldX w) (fieldNN w), append_xnn_eq h⟩
  · exact ⟨.addImm (fieldX w) (fieldNN w), append_xnn_eq h⟩
  · exact ⟨.ldI (fieldNNN w), append_nnn_eq h⟩
  · exact ⟨.jpV0 (fieldNNN w), append_nnn_eq h⟩
  · exact ⟨.rnd (fieldX w) (fieldNN w), append_xnn_eq h⟩
  · exact ⟨.drw (fieldX w) (fieldY w) (fieldN w), append_xyn_eq h⟩

theorem exists_encode_family8 (x y : Nibble) {n : Nibble} (h : n ∈ family8Functions) :
    ∃ i, encode i = 0x8#4 ++ x ++ y ++ n := by
  simp only [family8Functions, List.mem_cons, List.not_mem_nil, or_false] at h
  rcases h with rfl | rfl | rfl | rfl | rfl | rfl | rfl | rfl
  · exact ⟨.ldReg x y, rfl⟩
  · exact ⟨.orReg x y, rfl⟩
  · exact ⟨.andReg x y, rfl⟩
  · exact ⟨.xorReg x y, rfl⟩
  · exact ⟨.addReg x y, rfl⟩
  · exact ⟨.subReg x y, rfl⟩
  · exact ⟨.shr x y, rfl⟩
  · exact ⟨.shl x y, rfl⟩

theorem exists_encode_familyE (x : Nibble) {nn : Byte} (h : nn ∈ familyEFunctions) :
    ∃ i, encode i = 0xE#4 ++ x ++ nn := by
  simp only [familyEFunctions, List.mem_cons, List.not_mem_nil, or_false] at h
  rcases h with rfl | rfl
  · exact ⟨.skp x, rfl⟩
  · exact ⟨.sknp x, rfl⟩

theorem exists_encode_familyF (x : Nibble) {nn : Byte} (h : nn ∈ familyFFunctions) :
    ∃ i, encode i = 0xF#4 ++ x ++ nn := by
  simp only [familyFFunctions, List.mem_cons, List.not_mem_nil, or_false] at h
  rcases h with rfl | rfl | rfl | rfl | rfl | rfl | rfl | rfl | rfl
  · exact ⟨.ldVxDt x, rfl⟩
  · exact ⟨.ldVxK x, rfl⟩
  · exact ⟨.ldDtVx x, rfl⟩
  · exact ⟨.ldStVx x, rfl⟩
  · exact ⟨.addI x, rfl⟩
  · exact ⟨.ldF x, rfl⟩
  · exact ⟨.ldB x, rfl⟩
  · exact ⟨.ldMemVx x, rfl⟩
  · exact ⟨.ldVxMem x, rfl⟩

theorem exists_encode (h : wellFormedWord w = true) : ∃ i, encode i = w := by
  obtain hf | hf | hf | hf | hf | hf | hf := family_cases (fieldFamily w)
  · exact exists_encode_open hf
  · rw [wellFormedWord_family0 hf] at h
    obtain rfl | rfl := h
    · exact ⟨.cls, rfl⟩
    · exact ⟨.ret, rfl⟩
  · have hn : 0x0#4 = fieldN w := ((wellFormedWord_family5 hf).mp h).symm
    exact ⟨.seReg (fieldX w) (fieldY w), by rw [encode, hn, append_xyn_eq hf]⟩
  · rw [wellFormedWord_family8 hf] at h
    exact append_xyn_eq hf ▸ exists_encode_family8 _ _ h
  · have hn : 0x0#4 = fieldN w := ((wellFormedWord_family9 hf).mp h).symm
    exact ⟨.sneReg (fieldX w) (fieldY w), by rw [encode, hn, append_xyn_eq hf]⟩
  · rw [wellFormedWord_familyE hf] at h
    exact append_xnn_eq hf ▸ exists_encode_familyE _ h
  · rw [wellFormedWord_familyF hf] at h
    exact append_xnn_eq hf ▸ exists_encode_familyF _ h

/-! ## Every other word is rejected -/

/-- Membership of a field in a list of function digits, in the numbers that the decoder matches on. -/
theorem toNat_not_mem_of_not_mem {k : Nat} {b : BitVec k} {l : List (BitVec k)} (h : b ∉ l) :
    b.toNat ∉ l.map BitVec.toNat :=
  fun hm => h ((List.mem_map_of_injective (fun _ _ => BitVec.eq_of_toNat_eq)).mp hm)

theorem decodeFamily8_of_not_mem (h : fieldN w ∉ family8Functions) :
    decodeFamily8 w = .error (.unlisted w) := by
  have hnat := toNat_not_mem_of_not_mem h
  unfold decodeFamily8
  split
  case h_9 => rfl
  all_goals next hn => exact absurd (by rw [hn]; decide) hnat

theorem decodeFamilyE_of_not_mem (h : fieldNN w ∉ familyEFunctions) :
    decodeFamilyE w = .error (.unlisted w) := by
  have hnat := toNat_not_mem_of_not_mem h
  unfold decodeFamilyE
  split
  case h_3 => rfl
  all_goals next hn => exact absurd (by rw [hn]; decide) hnat

theorem decodeFamilyF_of_not_mem (h : fieldNN w ∉ familyFFunctions) :
    decodeFamilyF w = .error (.unlisted w) := by
  have hnat := toNat_not_mem_of_not_mem h
  unfold decodeFamilyF
  split
  case h_10 => rfl
  all_goals next hn => exact absurd (by rw [hn]; decide) hnat

theorem decode_of_not_wellFormed (h : ¬wellFormedWord w = true) : decode w = .error (.unlisted w) := by
  obtain hf | hf | hf | hf | hf | hf | hf := family_cases (fieldFamily w)
  · exact absurd (wellFormedWord_open hf) h
  · rw [wellFormedWord_family0 hf] at h
    obtain ⟨hcls, hret⟩ := not_or.mp h
    simp [decode, hf, decodeFamily0, hcls, hret]
  · rw [wellFormedWord_family5 hf] at h
    simp [decode, hf, decodeRegCompare, h]
  · rw [wellFormedWord_family8 hf] at h
    simp [decode, hf, decodeFamily8_of_not_mem h]
  · rw [wellFormedWord_family9 hf] at h
    simp [decode, hf, decodeRegCompare, h]
  · rw [wellFormedWord_familyE hf] at h
    simp [decode, hf, decodeFamilyE_of_not_mem h]
  · rw [wellFormedWord_familyF hf] at h
    simp [decode, hf, decodeFamilyF_of_not_mem h]

theorem wellFormedWord_of_decode {i : Instr} (h : decode w = .ok i) : wellFormedWord w = true := by
  by_contra hw
  exact absurd ((decode_of_not_wellFormed hw).symm.trans h) nofun

theorem exists_decode_iff : (∃ i, decode w = .ok i) ↔ wellFormedWord w = true := by
  refine ⟨fun ⟨_, h⟩ => wellFormedWord_of_decode h, fun h => ?_⟩
  obtain ⟨i, rfl⟩ := exists_encode h
  exact ⟨i, decode_encode i⟩

/-- An illegal word raises wherever it is fetched (40_dispatch.md R58). -/
theorem raisesDecodeError_of_not_wellFormed (h : ¬wellFormedWord w = true) :
    Machine.RaisesDecodeError w :=
  have hd := decode_of_not_wellFormed h
  ⟨hd, fun _ hw => ⟨_, Machine.dispatchStep_of_reject hw hd, rfl, rfl⟩⟩

end

/-- Settles O3: a word that decodes is legal, hence the word of an instruction, which is the decoded one. -/
theorem encodeDecodeRoundTrip : Obligations.EncodeDecodeRoundTrip := by
  unfold Obligations.EncodeDecodeRoundTrip
  intro w i h
  obtain ⟨j, rfl⟩ := exists_encode (wellFormedWord_of_decode h)
  rw [Except.ok.inj ((decode_encode j).symm.trans h)]

/-- Settles O5: a listed word is an instruction's word, and every other word of the family is illegal. -/
theorem familyEAndFWords : Obligations.FamilyEAndFWords := by
  unfold Obligations.FamilyEAndFWords
  refine ⟨fun w hf => ⟨fun hn => ?_, fun hn => ?_, fun h9E hA1 => ?_⟩, fun w hf => ⟨?_, fun hn => ?_⟩⟩
  · exact decode_of_encode_eq (by rw [encode, ← hn, append_xnn_eq hf])
  · exact decode_of_encode_eq (by rw [encode, ← hn, append_xnn_eq hf])
  · refine raisesDecodeError_of_not_wellFormed ?_
    rw [wellFormedWord_familyE hf]
    simp [familyEFunctions, h9E, hA1]
  · exact exists_decode_iff.trans (wellFormedWord_familyF hf)
  · exact raisesDecodeError_of_not_wellFormed (mt (wellFormedWord_familyF hf).mp hn)

theorem unlisted_not_mem_family8Functions :
    ∀ n ∈ [0x7#4, 0x8#4, 0x9#4, 0xA#4, 0xB#4, 0xC#4, 0xD#4, 0xF#4], n ∉ family8Functions := by
  decide

/-- Settles O6: in each family the words named are the illegal ones. -/
theorem illegalWordsOfFamilies0589 : Obligations.IllegalWordsOfFamilies0589 := by
  unfold Obligations.IllegalWordsOfFamilies0589
  refine fun w => ⟨fun hf hcls hret => ?_, fun hf hn => ?_, fun hf hn => ?_, fun hf hn => ?_⟩
  · exact raisesDecodeError_of_not_wellFormed
      (mt (wellFormedWord_family0 hf).mp (not_or.mpr ⟨hcls, hret⟩))
  · exact raisesDecodeError_of_not_wellFormed (mt (wellFormedWord_family5 hf).mp hn)
  · exact raisesDecodeError_of_not_wellFormed (mt (wellFormedWord_family9 hf).mp hn)
  · exact raisesDecodeError_of_not_wellFormed
      (mt (wellFormedWord_family8 hf).mp (unlisted_not_mem_family8Functions _ hn))

/-- Settles O1: ten closed words, each decoded by evaluation. -/
theorem sampleWordsDecode : Obligations.SampleWordsDecode := by
  unfold Obligations.SampleWordsDecode
  decide

end Sys2Proof
end

section
/-! PROOFS. The opcode map's match and mask columns (30_encoding.md R45): the rows are grouped by the fields
their masks keep, and the rows that fit a word are counted group by group. -/

namespace Sys2Proof

/-! ## The rows by the fields they fix -/

/-- The row of one whole word. -/
def wordRow (v : Word) : OpcodeRow := ⟨0xFFFF#16, v⟩

/-- The row of a family's every word. -/
def familyRow (f : Nibble) : OpcodeRow := ⟨0xF000#16, f ++ 0x0#4 ++ 0x0#4 ++ 0x0#4⟩

/-- The row of a function nibble. -/
def nibbleRow (f n : Nibble) : OpcodeRow := ⟨0xF00F#16, f ++ 0x0#4 ++ 0x0#4 ++ n⟩

/-- The row of a function byte. -/
def byteRow (f : Nibble) (nn : Byte) : OpcodeRow := ⟨0xF0FF#16, f ++ 0x0#4 ++ nn⟩

theorem opcodeRows_perm : opcodeRows.Perm
    ([0x00E0#16, 0x00EE#16].map wordRow ++ openFamilies.map familyRow ++
      [0x0#4].map (nibbleRow 0x5#4) ++ family8Functions.map (nibbleRow 0x8#4) ++
      [0x0#4].map (nibbleRow 0x9#4) ++ familyEFunctions.map (byteRow 0xE#4) ++
      familyFFunctions.map (byteRow 0xF#4)) := by
  decide

section
variable (w : Word)

theorem nibble_and_ones (b : Nibble) : b &&& 0xF#4 = b := BitVec.and_allOnes

/-- A mask acts field by field. -/
theorem word_and_xyn (a b c d : Nibble) : w &&& (a ++ b ++ c ++ d) =
    (fieldFamily w &&& a) ++ (fieldX w &&& b) ++ (fieldY w &&& c) ++ (fieldN w &&& d) := by
  rw [← BitVec.and_append, ← BitVec.and_append, ← BitVec.and_append, ← word_eq_xyn]

theorem word_and_xnn (a b : Nibble) (c : Byte) : w &&& (a ++ b ++ c) =
    (fieldFamily w &&& a) ++ (fieldX w &&& b) ++ (fieldNN w &&& c) := by
  rw [← BitVec.and_append, ← BitVec.and_append, ← word_eq_xnn]

theorem wordRow_fits (v : Word) : (wordRow v).fits w = true ↔ v = w := by
  have hm : w &&& 0xFFFF#16 = w := BitVec.and_allOnes
  simp only [wordRow, OpcodeRow.fits, hm, beq_iff_eq]
  exact eq_comm

theorem familyRow_fits (f : Nibble) : (familyRow f).fits w = true ↔ f = fieldFamily w := by
  have hm : w &&& 0xF000#16 = fieldFamily w ++ 0x0#4 ++ 0x0#4 ++ 0x0#4 := by
    simpa [nibble_and_ones] using word_and_xyn w 0xF#4 0x0#4 0x0#4 0x0#4
  simp only [familyRow, OpcodeRow.fits, hm, beq_iff_eq]
  exact ⟨fun h => by simpa using (congrArg fieldFamily h).symm, fun h => by rw [h]⟩

theorem nibbleRow_fits (f n : Nibble) :
    (nibbleRow f n).fits w = true ↔ f = fieldFamily w ∧ n = fieldN w := by
  have hm : w &&& 0xF00F#16 = fieldFamily w ++ 0x0#4 ++ 0x0#4 ++ fieldN w := by
    simpa [nibble_and_ones] using word_and_xyn w 0xF#4 0x0#4 0x0#4 0xF#4
  simp only [nibbleRow, OpcodeRow.fits, hm, beq_iff_eq]
  exact ⟨fun h => ⟨by simpa using (congrArg fieldFamily h).symm, by simpa using (congrArg fieldN h).symm⟩,
    fun ⟨hf, hn⟩ => by rw [hf, hn]⟩

theorem byteRow_fits (f : Nibble) (nn : Byte) :
    (byteRow f nn).fits w = true ↔ f = fieldFamily w ∧ nn = fieldNN w := by
  have hones : fieldNN w &&& 0xFF#8 = fieldNN w := BitVec.and_allOnes
  have hm : w &&& 0xF0FF#16 = fieldFamily w ++ 0x0#4 ++ fieldNN w := by
    simpa [nibble_and_ones, hones] using word_and_xnn w 0xF#4 0x0#4 0xFF#8
  simp only [byteRow, OpcodeRow.fits, hm, beq_iff_eq]
  exact ⟨fun h => ⟨by simpa using (congrArg fieldFamily h).symm, by simpa using (congrArg fieldNN h).symm⟩,
    fun ⟨hf, hn⟩ => by rw [hf, hn]⟩

/-! ## Counting the rows that fit -/

theorem countP_wordRow {l : List Word} (hl : l.Nodup) :
    (l.map wordRow).countP (·.fits w) = if w ∈ l then 1 else 0 := by
  rw [← hl.count, List.countP_map, List.count_eq_countP]
  exact List.countP_congr fun v _ => by simp [wordRow_fits]

theorem countP_familyRow {l : List Nibble} (hl : l.Nodup) :
    (l.map familyRow).countP (·.fits w) = if fieldFamily w ∈ l then 1 else 0 := by
  rw [← hl.count, List.countP_map, List.count_eq_countP]
  exact List.countP_congr fun f _ => by simp [familyRow_fits]

theorem countP_nibbleRow (f : Nibble) {l : List Nibble} (hl : l.Nodup) :
    (l.map (nibbleRow f)).countP (·.fits w) =
      if f = fieldFamily w then if fieldN w ∈ l then 1 else 0 else 0 := by
  rw [← hl.count, List.countP_map, List.count_eq_countP]
  split
  case isTrue h => exact List.countP_congr fun n _ => by simp [nibbleRow_fits, h]
  case isFalse h => exact List.countP_eq_zero.mpr fun n _ => by simp [nibbleRow_fits, h]

theorem countP_byteRow (f : Nibble) {l : List Byte} (hl : l.Nodup) :
    (l.map (byteRow f)).countP (·.fits w) =
      if f = fieldFamily w then if fieldNN w ∈ l then 1 else 0 else 0 := by
  rw [← hl.count, List.countP_map, List.count_eq_countP]
  split
  case isTrue h => exact List.countP_congr fun nn _ => by simp [byteRow_fits, h]
  case isFalse h => exact List.countP_eq_zero.mpr fun nn _ => by simp [byteRow_fits, h]

/-- Each group lists a word, a family or a function digit once, so at most one of its rows fits. -/
theorem countP_opcodeRows : opcodeRows.countP (·.fits w) =
    (if w ∈ [0x00E0#16, 0x00EE#16] then 1 else 0) + (if fieldFamily w ∈ openFamilies then 1 else 0) +
    (if 0x5#4 = fieldFamily w then if fieldN w ∈ [0x0#4] then 1 else 0 else 0) +
    (if 0x8#4 = fieldFamily w then if fieldN w ∈ family8Functions then 1 else 0 else 0) +
    (if 0x9#4 = fieldFamily w then if fieldN w ∈ [0x0#4] then 1 else 0 else 0) +
    (if 0xE#4 = fieldFamily w then if fieldNN w ∈ familyEFunctions then 1 else 0 else 0) +
    (if 0xF#4 = fieldFamily w then if fieldNN w ∈ familyFFunctions then 1 else 0 else 0) := by
  rw [opcodeRows_perm.countP_eq]
  simp only [List.countP_append]
  rw [countP_wordRow w (by decide), countP_familyRow w (by decide), countP_nibbleRow w _ (by decide),
    countP_nibbleRow w _ (by decide), countP_nibbleRow w _ (by decide), countP_byteRow w _ (by decide),
    countP_byteRow w _ (by decide)]

theorem openFamilies_ne : ∀ f ∈ openFamilies,
    f ≠ 0x0#4 ∧ 0x5#4 ≠ f ∧ 0x8#4 ≠ f ∧ 0x9#4 ≠ f ∧ 0xE#4 ≠ f ∧ 0xF#4 ≠ f := by
  decide

variable {w}

theorem not_family0_word {f : Nibble} (hf : fieldFamily w = f) (h0 : f ≠ 0x0#4) :
    ¬(w = 0x00E0#16 ∨ w = 0x00EE#16) := by
  rintro (rfl | rfl)
  · exact h0 hf.symm
  · exact h0 hf.symm

/-- Only the rows of a word's own family can fit it, and one does exactly where the word is legal. -/
theorem countP_opcodeRows_eq_ite :
    opcodeRows.countP (·.fits w) = if wellFormedWord w then 1 else 0 := by
  rw [countP_opcodeRows]
  obtain hf | hf | hf | hf | hf | hf | hf := family_cases (fieldFamily w)
  · obtain ⟨h0, h5, h8, h9, hE, hF⟩ := openFamilies_ne _ hf
    simp [not_family0_word rfl h0, wellFormedWord_open hf, hf, h5, h8, h9, hE, hF]
  · simp [hf, openFamilies, wellFormedWord_family0 hf]
  · simp [hf, not_family0_word hf (by decide), openFamilies, wellFormedWord_family5 hf]
  · simp [hf, not_family0_word hf (by decide), openFamilies, wellFormedWord_family8 hf]
  · simp [hf, not_family0_word hf (by decide), openFamilies, wellFormedWord_family9 hf]
  · simp [hf, not_family0_word hf (by decide), openFamilies, wellFormedWord_familyE hf]
  · simp [hf, not_family0_word hf (by decide), openFamilies, wellFormedWord_familyF hf]

end

/-- Settles O4: a legal word decodes and is counted once, every other word is rejected and not counted. -/
theorem decodeIsTotalAndUnambiguous : Obligations.DecodeIsTotalAndUnambiguous := by
  unfold Obligations.DecodeIsTotalAndUnambiguous
  intro w
  refine ⟨exists_decode_iff.mpr, fun h => decode_of_not_wellFormed (by rw [h]; decide), ?_⟩
  rw [← List.countP_eq_length_filter, countP_opcodeRows_eq_ite]

end Sys2Proof
end

section
/-! PROOFS. What an instruction does to `run` and to the record of the host (40_dispatch.md R54, R55, R61):
it completes, raises or holds, and it logs the interactions of its rule. -/

namespace Sys2Proof.Machine

/-! ## Completing, raising, holding -/

/-- Only an error and the held key wait write `run`; an error writes nothing else (60_exceptions.md R105). -/
theorem Effect.run_cases {s t : State} {i : Instr} (h : Effect s i t) :
    t.run = s.run ∨ (∃ e, HaltsWith s t e (some (encode i)) (s.pc - 2#16)) ∨
      ∃ x, i = .ldVxK x ∧ t.run = .waitKey x false := by
  cases h with
  | raises e => exact .inr (.inl ⟨e, rfl, rfl⟩)
  | holds hi => exact .inr (.inr ⟨_, hi, rfl⟩)
  | _ => exact .inl rfl

/-- Settles O50: every instruction answers with an effect, and each effect treats `run` in one of the three
ways. -/
theorem everyInstructionAnswers : Obligations.EveryInstructionAnswers := by
  unfold Obligations.EveryInstructionAnswers
  intro i s
  obtain ⟨t, ht, h⟩ := exec_effect i s
  exact ⟨t, ht, h.run_cases⟩

/-! ## The record of the host -/

/-- `HaltsWith` changes `run` only, so nothing is said to or by the host. -/
theorem HaltsWith.hostLog_eq {s t : State} {e : Error} {w : Option Word} {a : Word}
    (h : HaltsWith s t e w a) : t.hostLog = s.hostLog := by
  obtain ⟨-, ht⟩ := h
  rw [ht]

/-- An instruction that ends halted, entered in a state that is not, has raised. -/
theorem Effect.hostLog_of_halted {s t : State} {i : Instr} (h : Effect s i t)
    (hs : ∀ r, s.run ≠ .halted r) {r : HaltRecord} (ht : t.run = .halted r) : t.hostLog = s.hostLog := by
  obtain hrun | ⟨e, hhalts⟩ | ⟨x, -, hwait⟩ := h.run_cases
  · exact absurd (hrun.symm.trans ht) (hs r)
  · exact hhalts.hostLog_eq
  · exact absurd (hwait.symm.trans ht) nofun

/-- `t` is halted, or the record of the host has gained what the rule of `i` says (40_dispatch.md R61). -/
def HaltsOrLogs (i : Instr) (s t : State) : Prop :=
  (∃ r, t.run = .halted r) ∨ t.hostLog = interactions i s t ++ s.hostLog

theorem raiseFrom_haltsOrLogs (e : Error) (i : Instr) (s : State) :
    ∃ t, raiseFrom e i s = .next t ∧ HaltsOrLogs i s t :=
  ⟨_, raiseFrom_eq e i s, .inl ⟨_, rfl⟩⟩

/-- A guarded instruction raises, or logs what it logs where its guard holds. -/
theorem guarded_haltsOrLogs (c : Prop) [Decidable c] {s t : State} (e : Error) {i : Instr}
    (h : HaltsOrLogs i s t) :
    ∃ u, (if c then .next t else raiseFrom e i s) = .next u ∧ HaltsOrLogs i s u := by
  by_cases hc : c
  · exact ⟨t, if_pos hc, h⟩
  · rw [if_neg hc]
    exact raiseFrom_haltsOrLogs e i s

theorem execRet_haltsOrLogs (s : State) : ∃ t, execRet s = .next t ∧ HaltsOrLogs .ret s t := by
  cases h : s.stack with
  | nil => exact execRet_nil h ▸ raiseFrom_haltsOrLogs _ .ret s
  | cons a rest => exact ⟨_, execRet_cons h, .inr rfl⟩

/-- `Fx0A` asks once, with or without an answer (46_timers_keys.md R102). -/
theorem execLdVxK_haltsOrLogs (x : Nibble) (s : State) :
    ∃ t, execLdVxK x s = .next t ∧ HaltsOrLogs (.ldVxK x) s t := by
  cases h : s.keyAnswer with
  | none => exact ⟨_, execLdVxK_none h x, .inr rfl⟩
  | some c => exact ⟨_, execLdVxK_some h x, .inr rfl⟩

theorem execAddI_haltsOrLogs (x : Nibble) (s : State) :
    ∃ t, execAddI x s = .next t ∧ HaltsOrLogs (.addI x) s t := by
  by_cases h : s.index.toNat + (s.reg x).toNat > 0xFFF
  · exact ⟨_, if_pos h, .inr rfl⟩
  · exact ⟨_, if_neg h, .inr rfl⟩

theorem State.setRegsFrom_hostLog (s : State) (k : Nat) (bs : List Byte) :
    (s.setRegsFrom k bs).hostLog = s.hostLog := by
  rw [State.setRegsFrom_frame]

/-- Every instruction raises or logs by its rule: the unguarded arms and each branch of the others log what
`interactions` lists. -/
theorem exec_haltsOrLogs (i : Instr) (s : State) : ∃ t, exec i s = .next t ∧ HaltsOrLogs i s t := by
  cases i with
  | ret => exact execRet_haltsOrLogs s
  | ldVxK x => exact execLdVxK_haltsOrLogs x s
  | addI x => exact execAddI_haltsOrLogs x s
  | call nnn => exact guarded_haltsOrLogs _ _ (.inr rfl)
  | drw x y n => exact guarded_haltsOrLogs _ _ (.inr rfl)
  | ldF x => exact guarded_haltsOrLogs _ _ (.inr rfl)
  | ldB x => exact guarded_haltsOrLogs _ _ (.inr rfl)
  | ldMemVx x => exact guarded_haltsOrLogs _ _ (.inr rfl)
  | ldVxMem x => exact guarded_haltsOrLogs _ _ (.inr (State.setRegsFrom_hostLog s _ _))
  | _ => exact ⟨_, rfl, .inr rfl⟩

/-- Settles O49: an instruction that halts has raised, and one that does not logs by its rule. -/
theorem hostInteractionsAreListed : Obligations.HostInteractionsAreListed := by
  unfold Obligations.HostInteractionsAreListed
  intro i s t h hs
  refine ⟨fun ⟨_, hr⟩ => (effect_of_exec h).hostLog_of_halted hs hr, fun hrun => ?_⟩
  obtain ⟨u, hu, hlog⟩ := exec_haltsOrLogs i s
  obtain rfl := Host.Outcome.next.inj (hu.symm.trans h)
  exact hlog.resolve_left fun ⟨r, hr⟩ => hrun r hr

end Sys2Proof.Machine
end

section
/-! PROOFS. The dispatcher step by what the fetch and the decoder answer (40_dispatch.md R53, R57, R58), and
the event step by what fires in it (60_exceptions.md R115, R117, R120). -/

namespace Sys2Proof.Machine

/-- Settles O8: from 0xFFF on the word's second byte lies past the bank, so nothing is fetched. -/
theorem fetchPastTheBankFaults : Obligations.FetchPastTheBankFaults := by
  unfold Obligations.FetchPastTheBankFaults
  intro s hpc
  exact ⟨_, dispatchStep_of_no_word (State.fetchWord_eq_none (by omega)), rfl, rfl⟩

/-- Settles O9: the halted state of `dispatchStep_of_reject` writes `pc` and `run` only. -/
theorem decodeErrorHaltsAfterTheAdvance : Obligations.DecodeErrorHaltsAfterTheAdvance := by
  unfold Obligations.DecodeErrorHaltsAfterTheAdvance
  intro s w r hw hd
  exact ⟨_, dispatchStep_of_reject hw hd, rfl, rfl, rfl⟩

/-! ## What fires in an event step -/

section
variable (p : Params) (s : State)

/-- After the idle steps, a dispatch fires exactly where it is due no later than the tick. -/
theorem firesDispatch_skipIdle : firesDispatch p (skipIdle (idleSteps p s) s) =
    decide (p.decodeInterval - s.accD ≤ p.timerInterval - s.accT) := by
  apply decide_eq_decide.mpr
  simp only [skipIdle, idleSteps, State.setAcc_accD]
  omega

theorem firesTick_skipIdle : firesTick p (skipIdle (idleSteps p s) s) =
    decide (p.timerInterval - s.accT ≤ p.decodeInterval - s.accD) := by
  apply decide_eq_decide.mpr
  simp only [skipIdle, idleSteps, State.setAcc_accT]
  omega

/-- The accumulators of an event step: the one that fires is reset, the other has counted the idle steps and
this one. -/
theorem advanceAcc_skipIdle : advanceAcc p (skipIdle (idleSteps p s) s) =
    s.setAcc
      (if p.decodeInterval - s.accD ≤ p.timerInterval - s.accT then 0 else s.accD + idleSteps p s + 1)
      (if p.timerInterval - s.accT ≤ p.decodeInterval - s.accD then 0 else s.accT + idleSteps p s + 1) := by
  simp only [advanceAcc, firesDispatch_skipIdle, firesTick_skipIdle, decide_eq_true_eq]
  rfl

variable {s} (hrun : s.run = .running)
include hrun

theorem hostMove_eq_fireActions : hostMove p s =
    fireActions p.sameStepOrder (firesDispatch p (skipIdle (idleSteps p s) s))
      (firesTick p (skipIdle (idleSteps p s) s)) (advanceAcc p (skipIdle (idleSteps p s) s)) :=
  (hostMove_running p hrun).trans (schedulerStep_running p hrun)

theorem hostMove_of_dispatch_due_first
    (h : p.decodeInterval - s.accD < p.timerInterval - s.accT) :
    hostMove p s = dispatchStep (s.setAcc 0 (s.accT + (p.decodeInterval - s.accD) + 1)) := by
  have hidle : idleSteps p s = p.decodeInterval - s.accD := Nat.min_eq_left h.le
  rw [hostMove_eq_fireActions p hrun, firesDispatch_skipIdle, firesTick_skipIdle, advanceAcc_skipIdle, hidle]
  simp only [h.le, h.not_ge, decide_true, decide_false, if_true, if_false, fireActions]

theorem hostMove_of_tick_due_first
    (h : p.timerInterval - s.accT < p.decodeInterval - s.accD) :
    hostMove p s = .next (timerTick (s.setAcc (s.accD + (p.timerInterval - s.accT) + 1) 0)) := by
  have hidle : idleSteps p s = p.timerInterval - s.accT := Nat.min_eq_right h.le
  rw [hostMove_eq_fireActions p hrun, firesDispatch_skipIdle, firesTick_skipIdle, advanceAcc_skipIdle, hidle]
  simp only [h.le, h.not_ge, decide_true, decide_false, if_true, if_false, fireActions]

theorem hostMove_of_both_due
    (h : p.decodeInterval - s.accD = p.timerInterval - s.accT) :
    hostMove p s = fireActions p.sameStepOrder true true (s.setAcc 0 0) := by
  rw [hostMove_eq_fireActions p hrun, firesDispatch_skipIdle, firesTick_skipIdle, advanceAcc_skipIdle]
  simp [h]

end

/-! ## A step runs the decoded instruction -/

/-- The fetch does not see the accumulators, so a dispatch from any of them runs the same instruction. -/
theorem dispatchStep_setAcc {s : State} {w : Word} {i : Instr} (hw : s.fetchWord = some w)
    (hd : decode w = .ok i) (d t : Nat) :
    dispatchStep (s.setAcc d t) = exec i ((s.setPc (s.pc + 2#16)).setAcc d t) :=
  dispatchStep_of_instr ((State.fetchWord_congr rfl rfl).trans hw) hd

/-- Nor does it see what a timer tick writes. -/
theorem dispatchStep_timerTick_setAcc {s : State} {w : Word} {i : Instr} (hw : s.fetchWord = some w)
    (hd : decode w = .ok i) (d t : Nat) :
    dispatchStep (timerTick (s.setAcc d t)) = exec i (timerTick ((s.setPc (s.pc + 2#16)).setAcc d t)) :=
  dispatchStep_of_instr ((State.fetchWord_congr rfl rfl).trans hw) hd

/-- Settles O7: a step is the host's move under the model's own parameters, split by what is due first. -/
theorem stepRunsDecodedInstruction : Obligations.StepRunsDecodedInstruction := by
  unfold Obligations.StepRunsDecodedInstruction
  intro s w i hrun hw hd
  refine ⟨dispatchStep_of_instr hw hd, fun h => ?_, fun h => ?_, fun h => ?_⟩
  · exact (hostMove_of_dispatch_due_first params hrun h).trans (dispatchStep_setAcc hw hd _ _)
  · exact hostMove_of_tick_due_first params hrun h
  · rw [step, hostMove_of_both_due params hrun h]
    cases params.sameStepOrder with
    | dispatchFirst => exact congrArg (onNext · tickAfterDispatch) (dispatchStep_setAcc hw hd 0 0)
    | tickFirst => exact dispatchStep_timerTick_setAcc hw hd 0 0

end Sys2Proof.Machine
end

section
/-! PROOFS. The display family (41_display.md): a draw changes exactly the pixels its sprite covers, and
collides exactly where it covers a lit one; `00E0` and `Dxyn` run `clear` and `draw_sprite`. -/

namespace Sys2Proof.Machine

/-! ## The pixels a sprite covers -/

theorem not_spriteCovers_nil (col row r c : Nat) : ¬SpriteCovers [] col row r c :=
  fun ⟨i, _⟩ => i.elim0

/-- Bit `63 - c` of a row mask is set exactly where a set bit of the byte lands on column `c` (R64). -/
theorem getLsbD_spriteMask_iff (b : Byte) {col c : Nat} (hc : c < 64) :
    (spriteMask b col).getLsbD (63 - c) = true ↔
      ∃ j : Fin 8, col + j.val = c ∧ b.getLsbD (7 - j.val) = true := by
  rw [getLsbD_spriteMask b hc, Bool.and_eq_true, decide_eq_true_eq]
  constructor
  · rintro ⟨hcol, hb⟩
    exact ⟨⟨c - col, by omega⟩, by dsimp only; omega, hb⟩
  · rintro ⟨j, rfl, hb⟩
    rw [Nat.add_sub_cancel_left]
    exact ⟨by omega, hb⟩

/-- A sprite covers what its top byte's row mask covers in row `row`, and what the rows below cover. -/
theorem spriteCovers_cons (b : Byte) (rest : List Byte) (col row r : Nat) {c : Nat} (hc : c < 64) :
    SpriteCovers (b :: rest) col row r c ↔
      (row % 32 = r ∧ (spriteMask b col).getLsbD (63 - c) = true) ∨ SpriteCovers rest col (row + 1) r c := by
  rw [getLsbD_spriteMask_iff b hc]
  constructor
  · rintro ⟨⟨i, hi⟩, j, hrow, hcol, hbit⟩
    cases i with
    | zero => exact .inl ⟨hrow, j, hcol, hbit⟩
    | succ i => exact .inr ⟨⟨i, Nat.lt_of_succ_lt_succ hi⟩, j, by dsimp only at hrow ⊢; omega, hcol, hbit⟩
  · rintro (⟨hrow, j, hcol, hbit⟩ | ⟨i, j, hrow, hcol, hbit⟩)
    · exact ⟨⟨0, Nat.succ_pos _⟩, j, hrow, hcol, hbit⟩
    · exact ⟨i.succ, j, by rw [Fin.val_succ]; omega, hcol, hbit⟩

/-- A sprite of at most 32 rows does not wrap onto its own top row. -/
theorem SpriteCovers.row_ne {rest : List Byte} {col row r c : Nat} (hlen : rest.length < 32)
    (h : SpriteCovers rest col (row + 1) r c) : r ≠ row % 32 := by
  obtain ⟨i, -, hrow, -⟩ := h
  omega

/-! ## Pixels and rows -/

@[simp] theorem Frame.pixel_mod (f : Frame) (row c : Nat) :
    Frame.pixel f (row % 32) c = Frame.pixel f row c := by
  simp [Frame.pixel, Frame.row]

/-- Two framebuffers with the same pixels are the same. -/
theorem Frame.ext_pixel {f g : Frame}
    (h : ∀ r c, r < 32 → c < 64 → Frame.pixel f r c = Frame.pixel g r c) : f = g := by
  refine Frame.ext_row fun r hr => BitVec.eq_of_getLsbD_eq fun i hi => ?_
  have hpixel := h r (63 - i) hr (by omega)
  rwa [Frame.pixel_eq, Frame.pixel_eq, Nat.sub_sub_self (by omega)] at hpixel

/-- A mask xored into a row changes the pixels under its set bits. -/
theorem Frame.pixel_setRow_xor_ne_iff (f : Frame) (row : Nat) (m : PixelRow) (c : Nat) :
    Frame.pixel (Frame.setRow f row (Frame.row f row ^^^ m)) row c ≠ Frame.pixel f row c ↔
      m.getLsbD (63 - c) = true := by
  rw [Frame.pixel_eq, Frame.row_setRow, if_pos rfl, BitVec.getLsbD_xor, ← Frame.pixel_eq]
  cases Frame.pixel f row c <;> simp

theorem Frame.pixel_setRow_of_ne (f : Frame) {row r : Nat} (hr : r < 32) (h : r ≠ row % 32)
    (m : PixelRow) (c : Nat) : Frame.pixel (Frame.setRow f row m) r c = Frame.pixel f r c := by
  rw [Frame.pixel_eq, Frame.row_setRow, if_neg (by omega), Frame.pixel_eq]

/-- A row and a mask share a set bit exactly where the mask covers a lit pixel of the row. -/
theorem Frame.row_and_ne_zero_iff (f : Frame) (row : Nat) (m : PixelRow) :
    (Frame.row f row &&& m != 0x0#64) = true ↔
      ∃ c < 64, Frame.pixel f (row % 32) c = true ∧ m.getLsbD (63 - c) = true := by
  have hbit (c : Nat) : (Frame.row f row &&& m).getLsbD (63 - c) = true ↔
      Frame.pixel f (row % 32) c = true ∧ m.getLsbD (63 - c) = true := by
    rw [BitVec.getLsbD_and, Bool.and_eq_true, Frame.pixel_mod]
    rfl
  simp only [← hbit, bne_iff_ne, ne_eq]
  constructor
  · intro hne
    by_contra hnone
    refine hne (BitVec.eq_of_getLsbD_eq fun i hi => ?_)
    by_contra hset
    refine hnone ⟨63 - i, by omega, ?_⟩
    rw [Nat.sub_sub_self (by omega)]
    simpa using hset
  · rintro ⟨c, -, hset⟩ hzero
    simp [hzero] at hset

/-! ## A whole sprite drawn -/

/-- A draw changes exactly the pixels that its sprite covers (R64). -/
theorem pixel_drawRows_ne_iff {rows : List Byte} (hlen : rows.length ≤ 32) (f : Frame) (col row : Nat)
    {r c : Nat} (hr : r < 32) (hc : c < 64) :
    Frame.pixel (drawRows f col row rows).1 r c ≠ Frame.pixel f r c ↔ SpriteCovers rows col row r c := by
  induction rows generalizing f row with
  | nil => simp [drawRows, not_spriteCovers_nil]
  | cons b rest ih =>
    have hrest : rest.length < 32 := hlen
    have hbelow := ih hrest.le (Frame.setRow f row (Frame.row f row ^^^ spriteMask b col)) (row + 1)
    rw [spriteCovers_cons b rest col row r hc, drawRows]
    by_cases htop : r = row % 32
    · have hnot : ¬SpriteCovers rest col (row + 1) r c := fun h => h.row_ne hrest htop
      rw [not_ne_iff.mp (hbelow.not.mpr hnot), htop, Frame.pixel_mod, Frame.pixel_mod,
        Frame.pixel_setRow_xor_ne_iff]
      simp [← htop, hnot]
    · rw [← hbelow, Frame.pixel_setRow_of_ne f hr htop]
      simp [Ne.symm htop]

/-- A draw collides exactly where its sprite covers a lit pixel (R64). -/
theorem drawRows_collides_iff {rows : List Byte} (hlen : rows.length ≤ 32) (f : Frame) (col row : Nat) :
    (drawRows f col row rows).2 = true ↔
      ∃ r c, r < 32 ∧ c < 64 ∧ Frame.pixel f r c = true ∧ SpriteCovers rows col row r c := by
  induction rows generalizing f row with
  | nil => simp [drawRows, not_spriteCovers_nil]
  | cons b rest ih =>
    have hrest : rest.length < 32 := hlen
    rw [drawRows, Bool.or_eq_true, Frame.row_and_ne_zero_iff, ih hrest.le]
    constructor
    · rintro (⟨c, hc, hlit, hm⟩ | ⟨r, c, hr, hc, hlit, hcov⟩)
      · exact ⟨row % 32, c, Nat.mod_lt _ (by decide), hc, hlit,
          (spriteCovers_cons b rest col row _ hc).mpr (.inl ⟨rfl, hm⟩)⟩
      · rw [Frame.pixel_setRow_of_ne f hr (hcov.row_ne hrest)] at hlit
        exact ⟨r, c, hr, hc, hlit, (spriteCovers_cons b rest col row r hc).mpr (.inr hcov)⟩
    · rintro ⟨r, c, hr, hc, hlit, hcov⟩
      obtain ⟨rfl, hm⟩ | hcov := (spriteCovers_cons b rest col row r hc).mp hcov
      · exact .inl ⟨c, hc, hlit, hm⟩
      · rw [← Frame.pixel_setRow_of_ne f hr (hcov.row_ne hrest)] at hlit
        exact .inr ⟨r, c, hr, hc, hlit, hcov⟩

/-- Settles O12: of two values, a changed pixel has the other one; the flag is `drawRows_collides_iff`. -/
theorem drawSpriteTogglesPixels : Obligations.DrawSpriteTogglesPixels := by
  unfold Obligations.DrawSpriteTogglesPixels
  intro f px py rows hlen
  have hlen : rows.length ≤ 32 := by omega
  refine ⟨fun r c hr hc => ?_, drawRows_collides_iff hlen f _ _⟩
  have hchanged := pixel_drawRows_ne_iff hlen f (px.toNat % 64) py.toNat hr hc
  exact ⟨fun hcov => Bool.eq_not.mpr (hchanged.mpr hcov), fun hnot => not_ne_iff.mp (hchanged.not.mpr hnot)⟩

/-- Settles O14: the second draw toggles the same pixels again, and covers a lit one where the first covered
a dark one. -/
theorem drawingTwiceRestores : Obligations.DrawingTwiceRestores := by
  unfold Obligations.DrawingTwiceRestores
  intro f px py rows hlen
  obtain ⟨hfirst, -⟩ := drawSpriteTogglesPixels f px py rows hlen
  obtain ⟨hsecond, hcollides⟩ := drawSpriteTogglesPixels (drawSprite f px py rows).1 px py rows hlen
  constructor
  · refine Frame.ext_pixel fun r c hr hc => ?_
    obtain ⟨htoggles, hkeeps⟩ := hfirst r c hr hc
    obtain ⟨htoggles', hkeeps'⟩ := hsecond r c hr hc
    by_cases hcov : SpriteCovers rows (px.toNat % 64) py.toNat r c
    · rw [htoggles' hcov, htoggles hcov, Bool.not_not]
    · rw [hkeeps' hcov, hkeeps hcov]
  · rw [hcollides]
    refine exists₂_congr fun r c => and_congr_right fun hr => and_congr_right fun hc => ?_
    refine and_congr_left fun hcov => ?_
    rw [(hfirst r c hr hc).1 hcov, Bool.not_eq_true']

/-! ## The instructions -/

/-- Settles O11: `clear` leaves every row 0, and the redraw is logged after it. -/
theorem clsClearsAndRedraws : Obligations.ClsClearsAndRedraws := by
  unfold Obligations.ClsClearsAndRedraws
  exact ⟨decode_encode .cls, fun _ => ⟨_, rfl, Frame.row_clearFrame, rfl, rfl⟩⟩

@[simp] theorem getElem_spriteBytes (s : State) (n : Nibble) (k : Nat) (h : k < (spriteBytes s n).length) :
    (spriteBytes s n)[k] = s.mem.read (s.index.toNat + k) :=
  Memory.getElem_readBytes _ _ _ _ h

/-- `Dxyn` with its sprite in the bank draws, writes `VF` and redraws (R67). -/
theorem exec_drw_of_inRange {s : State} {n : Nibble} (h : inRange s.index.toNat n.toNat = true) (x y : Nibble) :
    exec (.drw x y n) s =
      .next ((s.setFb (drawSprite s.fb (s.reg x) (s.reg y) (spriteBytes s n)).1).setReg vf
        (flagByte (drawSprite s.fb (s.reg x) (s.reg y) (spriteBytes s n)).2)).emitRedraw :=
  if_pos h

/-- Settles O13: the state of `exec_drw_of_inRange`, field by field. -/
theorem drwDrawsSprite : Obligations.DrwDrawsSprite := by
  unfold Obligations.DrwDrawsSprite
  intro x y n
  refine ⟨decode_encode (.drw x y n), fun s hbank => ?_⟩
  have hin : inRange s.index.toNat n.toNat = true :=
    (inRange_iff _ _).mpr (hbank.imp_left (congrArg BitVec.toNat))
  refine ⟨_, spriteBytes s n, exec_drw_of_inRange hin x y, length_spriteBytes s n,
    getElem_spriteBytes s n, rfl, ?_, fun z hz => ?_, rfl, rfl⟩
  · rw [State.reg_emitRedraw, State.reg_setReg, if_pos (show 0xF#4 = vf from rfl), flagByte]
  · rw [State.reg_emitRedraw, State.reg_setReg, if_neg (show z ≠ vf from hz), State.reg_setFb]

end Sys2Proof.Machine
end

section
/-! PROOFS. The control-transfer family (42_control.md): a target is the operand exactly, and the stack
guards of `00EE` and `2nnn` raise at either end. -/

namespace Sys2Proof.Machine

@[simp] theorem addrOperand_toNat (nnn : Addr) : (addrOperand nnn).toNat = nnn.toNat :=
  BitVec.toNat_setWidth_of_le (by decide)

@[simp] theorem regOffset_toNat (b : Byte) : (regOffset b).toNat = b.toNat :=
  BitVec.toNat_setWidth_of_le (by decide)

/-- The target of `Bnnn` does not wrap: at most 0xFFF + 0xFF, it fits the 16 bits of `pc` (R72). -/
theorem addrOperand_add_regOffset_toNat (nnn : Addr) (b : Byte) :
    (addrOperand nnn + regOffset b).toNat = nnn.toNat + b.toNat := by
  have hnnn := nnn.isLt
  have hb := b.isLt
  rw [BitVec.toNat_add, addrOperand_toNat, regOffset_toNat, Nat.mod_eq_of_lt (by omega)]

/-- `2nnn` with room on the stack pushes `pc` and jumps (R71). -/
theorem exec_call_of_lt {s : State} (h : s.stack.length < 16) (nnn : Addr) :
    exec (.call nnn) s = .next ((s.setStack (s.pc :: s.stack)).setPc (addrOperand nnn)) :=
  if_pos h

/-- `2nnn` on a full stack raises, with its own word and address (R71, R105). -/
theorem exec_call_haltsWith {s : State} (h : ¬s.stack.length < 16) (nnn : Addr) :
    ∃ t, exec (.call nnn) s = .next t ∧
      HaltsWith s t .stackOverflow (some (encode (.call nnn))) (s.pc - 2#16) :=
  guarded_haltsWith h _ _ (.call nnn) s

/-- `00EE` on an empty stack raises, with its own word and address (R69, R105). -/
theorem exec_ret_haltsWith {s : State} (h : s.stack = []) :
    ∃ t, exec .ret s = .next t ∧ HaltsWith s t .stackUnderflow (some (encode .ret)) (s.pc - 2#16) :=
  ⟨_, (execRet_nil h).trans (raiseFrom_eq _ _ s), rfl, rfl⟩

/-- Settles O15: a nonempty stack is `execRet_cons`, an empty one `exec_ret_haltsWith`. -/
theorem retPopsOrUnderflows : Obligations.RetPopsOrUnderflows := by
  unfold Obligations.RetPopsOrUnderflows
  exact ⟨decode_encode .ret, fun _ _ _ hs => execRet_cons hs, fun _ hs => exec_ret_haltsWith hs⟩

/-- Settles O16: each jump writes `pc` only, and its target as a natural number is the operand, or the
operand plus `V0`. -/
theorem jumpsWritePc : Obligations.JumpsWritePc := by
  unfold Obligations.JumpsWritePc
  refine fun nnn => ⟨decode_encode (.jp nnn), decode_encode (.jpV0 nnn), fun s => ⟨?_, ?_⟩⟩
  · exact ⟨_, rfl, addrOperand_toNat nnn, rfl⟩
  · exact ⟨_, rfl, addrOperand_add_regOffset_toNat nnn (s.reg 0x0#4), rfl⟩

/-- Settles O17: the guard holds below 16 entries and fails at 16. -/
theorem callPushesOrOverflows : Obligations.CallPushesOrOverflows := by
  unfold Obligations.CallPushesOrOverflows
  refine fun nnn => ⟨decode_encode (.call nnn), fun s => ⟨fun hroom => ?_, fun hfull => ?_⟩⟩
  · exact ⟨_, exec_call_of_lt hroom nnn, rfl, addrOperand_toNat nnn, rfl⟩
  · exact exec_call_haltsWith (by omega) nnn

end Sys2Proof.Machine
end

section
/-! PROOFS. The conditional-skip family (43_skips.md): the two skips of a pair run `skipIf` with a condition
and with its opposite, so exactly one of them skips. -/

namespace Sys2Proof.Machine

/-- A skip on a condition `P` writes `pc` only, and adds 2 to it exactly where `P` holds (R74). -/
theorem State.skipIf_of_iff {c : Bool} {P : Prop} [Decidable P] (h : c = true ↔ P) (s : State) :
    s.skipIf c = { s with pc := if P then s.pc + 2#16 else s.pc } := by
  rw [State.skipIf_eq, if_congr h rfl rfl]
  rfl

/-- Where the condition of a pair holds, the first skips and the second does not. -/
theorem State.skipIf_pc_pair_of_true {c : Bool} (h : c = true) (s : State) :
    (s.skipIf c).pc = s.pc + 2#16 ∧ (s.skipIf !c).pc = s.pc := by
  subst h
  exact ⟨rfl, rfl⟩

/-- Where it does not hold, the second skips and the first does not. -/
theorem State.skipIf_pc_pair_of_false {c : Bool} (h : c = false) (s : State) :
    (s.skipIf c).pc = s.pc ∧ (s.skipIf !c).pc = s.pc + 2#16 := by
  subst h
  exact ⟨rfl, rfl⟩

/-- Settles O18: each is a skip on the Boolean form of its condition. -/
theorem immediateSkips : Obligations.ImmediateSkips := by
  unfold Obligations.ImmediateSkips
  refine fun x nn => ⟨decode_encode (.seImm x nn), decode_encode (.sneImm x nn), fun s => ⟨?_, ?_⟩⟩
  · exact congrArg Host.Outcome.next (State.skipIf_of_iff beq_iff_eq s)
  · exact congrArg Host.Outcome.next (State.skipIf_of_iff bne_iff_ne s)

/-- Settles O19: the skips as for an immediate; for another low nibble,
`illegalWordsOfFamilies0589`. -/
theorem registerSkips : Obligations.RegisterSkips := by
  unfold Obligations.RegisterSkips
  refine fun x y => ⟨decode_encode (.seReg x y), decode_encode (.sneReg x y), fun n hn => ?_,
    fun s => ⟨?_, ?_⟩⟩
  · obtain ⟨-, hfamily5, -, -⟩ := illegalWordsOfFamilies0589 (0x5#4 ++ x ++ y ++ n)
    obtain ⟨-, -, hfamily9, -⟩ := illegalWordsOfFamilies0589 (0x9#4 ++ x ++ y ++ n)
    rw [fieldFamily_xyn, fieldN_xyn] at hfamily5 hfamily9
    exact ⟨hfamily5 rfl hn, hfamily9 rfl hn⟩
  · exact congrArg Host.Outcome.next (State.skipIf_of_iff beq_iff_eq s)
  · exact congrArg Host.Outcome.next (State.skipIf_of_iff bne_iff_ne s)

/-- Settles O20: both skip on whether the one answer matches `V[x]`, which is the code compared as a number,
and never matches where no key is pressed. -/
theorem keySkips : Obligations.KeySkips := by
  unfold Obligations.KeySkips
  refine fun x => ⟨decode_encode (.skp x), decode_encode (.sknp x), fun s => ?_⟩
  refine ⟨_, _, rfl, rfl, fun c hc heq => ?_, fun c hc hne => ?_, fun hnone => ?_, rfl, rfl⟩
  · have hmatch : keyMatches s.keyAnswer (s.reg x) = true := by
      rw [hc, keyMatches_some, decide_eq_true heq]
    exact State.skipIf_pc_pair_of_true hmatch s.askKey
  · have hmatch : keyMatches s.keyAnswer (s.reg x) = false := by
      rw [hc, keyMatches_some, decide_eq_false hne]
    exact State.skipIf_pc_pair_of_false hmatch s.askKey
  · have hmatch : keyMatches s.keyAnswer (s.reg x) = false := by
      rw [hnone, keyMatches_none]
    exact State.skipIf_pc_pair_of_false hmatch s.askKey

end Sys2Proof.Machine
end

section
/-! PROOFS. The register and arithmetic family (44_alu.md): one register written, or a result and then its
flag; the values as natural numbers. -/

namespace Sys2Proof.Machine

/-! ## The register file after a write -/

theorem State.reg_setReg_self (s : State) (x : Nibble) (b : Byte) : (s.setReg x b).reg x = b := by
  rw [State.reg_setReg, if_pos rfl]

theorem State.reg_setReg_of_ne {x z : Nibble} (h : z ≠ x) (s : State) (b : Byte) :
    (s.setReg x b).reg z = s.reg z := by
  rw [State.reg_setReg, if_neg h]

theorem State.reg_setRegFlag_vf (s : State) (x : Nibble) (b f : Byte) :
    (s.setRegFlag x b f).reg vf = f :=
  State.reg_setReg_self (s.setReg x b) vf f

theorem State.reg_setRegFlag_self {x : Nibble} (h : x ≠ vf) (s : State) (b f : Byte) :
    (s.setRegFlag x b f).reg x = b :=
  (State.reg_setReg_of_ne h (s.setReg x b) f).trans (State.reg_setReg_self s x b)

theorem State.reg_setRegFlag_of_ne {x z : Nibble} (hx : z ≠ x) (hf : z ≠ vf) (s : State) (b f : Byte) :
    (s.setRegFlag x b f).reg z = s.reg z :=
  (State.reg_setReg_of_ne hf (s.setReg x b) f).trans (State.reg_setReg_of_ne hx s b)

/-! ## Results and flags as natural numbers -/

/-- A difference that wraps modulo 256 (R81), with the borrow added before subtracting. -/
theorem byte_sub_toNat (a b : Byte) : (a - b).toNat = (a.toNat + 256 - b.toNat) % 256 := by
  have := b.isLt
  rw [BitVec.toNat_sub]
  omega

theorem byte_shiftLeft_one_toNat (a : Byte) : (a <<< 1).toNat = 2 * a.toNat % 256 := by
  rw [BitVec.toNat_shiftLeft, Nat.shiftLeft_eq, Nat.mul_comm]

theorem flagByte_decide (P : Prop) [Decidable P] :
    flagByte (decide P) = if P then 0x01#8 else 0x00#8 :=
  if_congr decide_eq_true_iff rfl rfl

theorem lowBitFlag_toNat (a : Byte) : (lowBitFlag a).toNat = a.toNat % 2 :=
  (BitVec.toNat_and a 0x01#8).trans (Nat.and_one_is_mod a.toNat)

/-- Bit 7 of a byte is set exactly from 128 on. -/
theorem byte_and_high_bit_ne_zero_iff (a : Byte) : a &&& 0x80#8 ≠ 0x00#8 ↔ 128 ≤ a.toNat := by
  have hbit : a &&& 0x80#8 = if a.getLsbD 7 then 0x80#8 else 0x00#8 := BitVec.and_twoPow a 7
  have hmsb : a.getLsbD 7 = decide (128 ≤ a.toNat) := BitVec.msb_eq_decide a
  rw [hbit, hmsb]
  by_cases h : 128 ≤ a.toNat
  · simp [h]
  · simp [h]

theorem highBitFlag_toNat (a : Byte) : (highBitFlag a).toNat = a.toNat / 128 := by
  have hlt := a.isLt
  have hflag : highBitFlag a = if 128 ≤ a.toNat then 0x01#8 else 0x00#8 :=
    if_congr (bne_iff_ne.trans (byte_and_high_bit_ne_zero_iff a)) rfl rfl
  rw [hflag]
  split
  · rw [BitVec.toNat_ofNat]; omega
  · rw [BitVec.toNat_ofNat]; omega

/-! ## The instructions that write one register -/

/-- Settles O21: one register write of `nn`. -/
theorem ldImmLoadsByte : Obligations.LdImmLoadsByte := by
  unfold Obligations.LdImmLoadsByte
  exact fun x nn => ⟨decode_encode (.ldImm x nn), fun s =>
    ⟨_, rfl, State.reg_setReg_self s x nn, fun _ hz => State.reg_setReg_of_ne hz s nn, rfl⟩⟩

/-- Settles O22: one register write of the sum, which wraps modulo 256. -/
theorem addImmWrapsWithoutFlag : Obligations.AddImmWrapsWithoutFlag := by
  unfold Obligations.AddImmWrapsWithoutFlag
  refine fun x nn => ⟨decode_encode (.addImm x nn), fun s =>
    ⟨_, rfl, ?_, fun _ hz => State.reg_setReg_of_ne hz s _, rfl⟩⟩
  rw [State.reg_setReg_self, BitVec.toNat_add]

/-- Each of `8xy0` to `8xy3` is one register write of its result (R84 to R87). -/
theorem exec_copy_or_logic {x y : Nibble} {s : State} {i : Instr} {result : Byte}
    (h : (i, result) ∈ [(Instr.ldReg x y, s.reg y), (Instr.orReg x y, s.reg x ||| s.reg y),
      (Instr.andReg x y, s.reg x &&& s.reg y), (Instr.xorReg x y, s.reg x ^^^ s.reg y)]) :
    exec i s = .next (s.setReg x result) := by
  simp only [List.mem_cons, List.not_mem_nil, or_false, Prod.mk.injEq] at h
  obtain ⟨rfl, rfl⟩ | ⟨rfl, rfl⟩ | ⟨rfl, rfl⟩ | ⟨rfl, rfl⟩ := h
  · rfl
  · rfl
  · rfl
  · rfl

/-- Settles O23: `exec_copy_or_logic`, and what one register write leaves. -/
theorem copyAndLogicWriteOnlyVx : Obligations.CopyAndLogicWriteOnlyVx := by
  unfold Obligations.CopyAndLogicWriteOnlyVx
  refine fun x y => ⟨decode_encode (.ldReg x y), decode_encode (.orReg x y), decode_encode (.andReg x y),
    decode_encode (.xorReg x y), fun s i result h => ?_⟩
  exact ⟨_, exec_copy_or_logic h, State.reg_setReg_self s x result,
    fun _ hz => State.reg_setReg_of_ne hz s result, rfl⟩

/-- Settles O28: the draw leaves the registers, so one register write of the masked byte is all that
happens to them. -/
theorem rndMasksOneDraw : Obligations.RndMasksOneDraw := by
  unfold Obligations.RndMasksOneDraw
  exact fun x nn => ⟨decode_encode (.rnd x nn), fun s =>
    ⟨_, rfl, State.reg_setReg_self s.drawRandom x _, rfl,
      fun _ hz => State.reg_setReg_of_ne hz s.drawRandom _, rfl⟩⟩

/-! ## The instructions that write a result and then its flag -/

/-- Settles O24: the sum and then its carry. -/
theorem addRegSetsCarry : Obligations.AddRegSetsCarry := by
  unfold Obligations.AddRegSetsCarry
  refine fun x y => ⟨decode_encode (.addReg x y), fun s =>
    ⟨_, rfl, fun hx => ?_, ?_, fun _ hz hf => State.reg_setRegFlag_of_ne hz hf s _ _, rfl⟩⟩
  · rw [State.reg_setRegFlag_self hx, BitVec.toNat_add]
  · exact (State.reg_setRegFlag_vf s x _ _).trans (flagByte_decide _)

/-- Settles O25: the difference and then its no-borrow flag. -/
theorem subSetsNoBorrow : Obligations.SubSetsNoBorrow := by
  unfold Obligations.SubSetsNoBorrow
  refine fun x y => ⟨decode_encode (.subReg x y), fun s =>
    ⟨_, rfl, fun hx => ?_, ?_, fun _ hz hf => State.reg_setRegFlag_of_ne hz hf s _ _, rfl⟩⟩
  · rw [State.reg_setRegFlag_self hx, byte_sub_toNat]
  · exact (State.reg_setRegFlag_vf s x _ _).trans (flagByte_decide _)

/-- Settles O26: the half of `V[y]` and then the bit shifted out. -/
theorem shrShiftsVy : Obligations.ShrShiftsVy := by
  unfold Obligations.ShrShiftsVy
  refine fun x y => ⟨decode_encode (.shr x y), fun s =>
    ⟨_, rfl, fun hx => ?_, ?_, fun _ hz hf => State.reg_setRegFlag_of_ne hz hf s _ _, rfl⟩⟩
  · rw [State.reg_setRegFlag_self hx, BitVec.toNat_ushiftRight, Nat.shiftRight_eq_div_pow, Nat.pow_one]
  · exact (congrArg BitVec.toNat (State.reg_setRegFlag_vf s x _ _)).trans (lowBitFlag_toNat _)

/-- Settles O27: twice `V[y]` and then the bit shifted out. -/
theorem shlShiftsVy : Obligations.ShlShiftsVy := by
  unfold Obligations.ShlShiftsVy
  refine fun x y => ⟨decode_encode (.shl x y), fun s =>
    ⟨_, rfl, fun hx => ?_, ?_, fun _ hz hf => State.reg_setRegFlag_of_ne hz hf s _ _, rfl⟩⟩
  · rw [State.reg_setRegFlag_self hx, byte_shiftLeft_one_toNat]
  · exact (congrArg BitVec.toNat (State.reg_setRegFlag_vf s x _ _)).trans (highBitFlag_toNat _)

end Sys2Proof.Machine
end

section
/-! PROOFS. The index and memory family (45_index_memory.md): `I` as a natural number, and the blocks of
bytes that `Fx33` and `Fx55` store and `Fx65` loads, one at each address from `I` on. -/

namespace Sys2Proof.Machine

/-- A number that fits the width is kept exactly. -/
theorem toNat_ofNat_of_lt {w n : Nat} (h : n < 2 ^ w) : (BitVec.ofNat w n).toNat = n :=
  (BitVec.toNat_ofNat n w).trans (Nat.mod_eq_of_lt h)

/-! ## Stored blocks -/

/-- A store of `n` bytes from `a` on leaves every other address (R96, R97). -/
theorem Memory.read_writeBytes_outside (m : Memory) {a n k : Nat} {bs : List Byte} (hn : bs.length = n)
    (hk : k < a ∨ a + n ≤ k) : (m.writeBytes a bs).read k = m.read k := by
  subst hn
  obtain hlt | hge := hk
  · exact Memory.read_writeBytes_of_lt hlt
  · exact Memory.read_writeBytes_of_ge hge

/-- The digits stored are hundreds, tens and ones, at rising addresses (R96, D28). -/
theorem Memory.read_writeBytes_decimalDigits (m : Memory) (a : Nat) (b : Byte) :
    ((m.writeBytes a (decimalDigits b)).read a).toNat = b.toNat / 100 ∧
    ((m.writeBytes a (decimalDigits b)).read (a + 1)).toNat = b.toNat / 10 % 10 ∧
    ((m.writeBytes a (decimalDigits b)).read (a + 2)).toNat = b.toNat % 10 := by
  have hb := b.isLt
  have hread {j : Nat} (hj : j < 3) :
      (m.writeBytes a (decimalDigits b)).read (a + j) = (decimalDigits b)[j] :=
    Memory.read_writeBytes_getElem hj
  refine ⟨?_, ?_, ?_⟩
  · exact (congrArg BitVec.toNat (hread (j := 0) (by decide))).trans (toNat_ofNat_of_lt (by omega))
  · exact (congrArg BitVec.toNat (hread (j := 1) (by decide))).trans (toNat_ofNat_of_lt (by omega))
  · exact (congrArg BitVec.toNat (hread (j := 2) (by decide))).trans (toNat_ofNat_of_lt (by omega))

/-- `Fx33` whose three bytes lie in the bank stores the digits (R96). -/
theorem exec_ldB_of_le {s : State} (h : s.index.toNat + 2 ≤ 0xFFF) (x : Nibble) :
    exec (.ldB x) s = .next (s.store s.index.toNat (decimalDigits (s.reg x))) :=
  if_pos ((inRange_iff _ _).mpr (.inr (by omega)))

/-- Settles O32: a store of the three digits. -/
theorem ldBStoresDigits : Obligations.LdBStoresDigits := by
  unfold Obligations.LdBStoresDigits
  refine fun x => ⟨decode_encode (.ldB x), fun s hbank => ?_⟩
  obtain ⟨hundreds, tens, ones⟩ := s.mem.read_writeBytes_decimalDigits s.index.toNat (s.reg x)
  exact ⟨_, exec_ldB_of_le hbank x, hundreds, tens, ones,
    fun _ ha => s.mem.read_writeBytes_outside (length_decimalDigits _) ha, rfl⟩

/-- Settles O33: a store of `V0` to `V[x]`. -/
theorem ldMemVxStoresRegisters : Obligations.LdMemVxStoresRegisters := by
  unfold Obligations.LdMemVxStoresRegisters
  refine fun x => ⟨decode_encode (.ldMemVx x), fun s hbank => ?_⟩
  exact ⟨_, exec_ldMemVx_of_le hbank, fun k hk => Memory.read_writeBytes_regsUpTo _ _ s hk,
    fun _ ha => s.mem.read_writeBytes_outside (length_regsUpTo s x) ha, rfl⟩

/-! ## Loaded blocks -/

/-- `Fx65` whose bytes lie in the bank loads (R98). -/
theorem exec_ldVxMem_of_le {s : State} {x : Nibble} (h : s.index.toNat + x.toNat ≤ 0xFFF) :
    exec (.ldVxMem x) s =
      .next (s.setRegsFrom 0 (s.mem.readBytes s.index.toNat (x.toNat + 1))) :=
  if_pos ((inRange_iff _ _).mpr (.inr (by omega)))

/-- A block of bytes loaded into `V0` to `V[x]`: these registers hold it, the ones above keep their value. -/
theorem State.reg_setRegsFrom_readBytes (s : State) (m : Memory) (a : Nat) (x k : Nibble) :
    (s.setRegsFrom 0 (m.readBytes a (x.toNat + 1))).reg k =
      if k.toNat ≤ x.toNat then m.read (a + k.toNat) else s.reg k := by
  have hx := x.isLt
  rw [State.reg_setRegsFrom s (by rw [Memory.length_readBytes]; omega)]
  by_cases hk : k.toNat ≤ x.toNat
  · rw [dif_pos (by rw [Memory.length_readBytes]; omega), if_pos hk, Memory.getElem_readBytes, Nat.sub_zero]
  · rw [dif_neg (by rw [Memory.length_readBytes]; omega), if_neg hk]

/-- Settles O34: a load of the bytes from `I` on into `V0` to `V[x]`. -/
theorem ldVxMemLoadsRegisters : Obligations.LdVxMemLoadsRegisters := by
  unfold Obligations.LdVxMemLoadsRegisters
  refine fun x => ⟨decode_encode (.ldVxMem x), fun s hbank => ?_⟩
  refine ⟨_, exec_ldVxMem_of_le hbank, fun k hk => ?_, fun k hk => ?_, s.setRegsFrom_frame 0 _⟩
  · rw [State.reg_setRegsFrom_readBytes, if_pos hk]
  · rw [State.reg_setRegsFrom_readBytes, if_neg (Nat.not_le.mpr hk)]

theorem State.setRegsFrom_mem (s : State) (k : Nat) (bs : List Byte) : (s.setRegsFrom k bs).mem = s.mem := by
  rw [State.setRegsFrom_frame]

theorem State.setRegsFrom_index (s : State) (k : Nat) (bs : List Byte) :
    (s.setRegsFrom k bs).index = s.index := by
  rw [State.setRegsFrom_frame]

/-- Settles O36: the store leaves `I` and the load leaves memory and `I`, so the load reads at `I + k` the
register that the store wrote there. -/
theorem storeThenLoadRestoresRegisters : Obligations.StoreThenLoadRestoresRegisters := by
  unfold Obligations.StoreThenLoadRestoresRegisters
  refine fun x s hbank => ⟨_, exec_ldMemVx_of_le hbank, fun v => ?_⟩
  refine ⟨_, exec_ldVxMem_of_le hbank, State.setRegsFrom_mem _ _ _, State.setRegsFrom_index _ _ _,
    fun k hk => ?_⟩
  rw [State.reg_setRegsFrom_readBytes, if_pos hk]
  exact Memory.read_writeBytes_regsUpTo s.mem s.index.toNat s hk

/-! ## The index register -/

/-- Settles O29: one write of `I`, with the operand zero-extended. -/
theorem ldILoadsAddress : Obligations.LdILoadsAddress := by
  unfold Obligations.LdILoadsAddress
  exact fun nnn => ⟨decode_encode (.ldI nnn), fun _ => ⟨_, rfl, addrOperand_toNat nnn, rfl⟩⟩

/-- `Fx1E` with a sum above 0xFFF masks it and sets `VF` (R94, D10). -/
theorem exec_addI_of_gt {s : State} {x : Nibble} (h : s.index.toNat + (s.reg x).toNat > 0xFFF) :
    exec (.addI x) s =
      .next ((s.setIndex (BitVec.ofNat 16 ((s.index.toNat + (s.reg x).toNat) % 0x1000))).setReg vf 0x01#8) :=
  if_pos h

/-- `Fx1E` with any other sum writes it to `I` and leaves `VF` (R94, D10). -/
theorem exec_addI_of_le {s : State} {x : Nibble} (h : s.index.toNat + (s.reg x).toNat ≤ 0xFFF) :
    exec (.addI x) s = .next (s.setIndex (BitVec.ofNat 16 (s.index.toNat + (s.reg x).toNat))) :=
  if_neg (Nat.not_lt.mpr h)

/-- Settles O30: the sum exceeds 0xFFF or not, and either way what is written to `I` fits its 16 bits. -/
theorem addIMasksOnOverflow : Obligations.AddIMasksOnOverflow := by
  unfold Obligations.AddIMasksOnOverflow
  refine fun x => ⟨decode_encode (.addI x), fun s => ?_⟩
  obtain hgt | hle := Nat.lt_or_ge 0xFFF (s.index.toNat + (s.reg x).toNat)
  · refine ⟨_, exec_addI_of_gt hgt, fun _ => ⟨?_, ?_, fun z hz => ?_⟩,
      fun hle => absurd hle (Nat.not_le.mpr hgt), rfl⟩
    · exact toNat_ofNat_of_lt (by omega)
    · exact State.reg_setReg_self _ vf _
    · exact State.reg_setReg_of_ne hz _ _
  · refine ⟨_, exec_addI_of_le hle, fun hgt => absurd hle (Nat.not_le.mpr hgt), fun _ => ⟨?_, rfl⟩, rfl⟩
    exact toNat_ofNat_of_lt (by omega)

/-- Settles O31: a digit up to 15 has a glyph, and a larger one fails the guard. -/
theorem ldFPointsAtGlyph : Obligations.LdFPointsAtGlyph := by
  unfold Obligations.LdFPointsAtGlyph
  refine fun x => ⟨decode_encode (.ldF x), fun s => ⟨fun hdigit => ?_, fun hlarge => ?_⟩⟩
  · exact ⟨_, if_pos hdigit, glyphAddress_toNat hdigit, rfl⟩
  · exact guarded_haltsWith (Nat.not_le.mpr hlarge) _ _ (.ldF x) s

end Sys2Proof.Machine
end

section
/-! PROOFS. The timer and key-wait family (46_timers_keys.md): the register and timer moves, the audio level
after a tick, and the key that ends an `Fx0A`, at its first query or at a later poll. -/

namespace Sys2Proof.Machine

/-! ## The timers -/

/-- Settles O38: one register write of `DT`, and one write of `DT`. -/
theorem delayTimerReadAndSet : Obligations.DelayTimerReadAndSet := by
  unfold Obligations.DelayTimerReadAndSet
  refine fun x => ⟨decode_encode (.ldVxDt x), decode_encode (.ldDtVx x), fun s => ⟨?_, rfl⟩⟩
  exact ⟨_, rfl, State.reg_setReg_self s x s.dt, fun _ hz => State.reg_setReg_of_ne hz s s.dt, rfl⟩

/-- A tick asserts the audio level exactly where it leaves `ST` above 0 (60_exceptions.md R113). -/
theorem timerTick_audioOn_iff (s : State) : (timerTick s).audioOn = true ↔ 2 ≤ s.st.toNat := by
  have hzero : countDown s.st = 0x00#8 ↔ s.st.toNat - 1 = 0 := by
    rw [← BitVec.toNat_inj, countDown_toNat]
    rfl
  rw [timerTick_eq, bne_iff_ne, Ne, hzero]
  omega

/-- Settles O39: one write of `ST`; a tick needs 2 or more in `ST` to assert the audio level. -/
theorem soundTimerSetLeavesAudio : Obligations.SoundTimerSetLeavesAudio := by
  unfold Obligations.SoundTimerSetLeavesAudio
  refine fun x => ⟨decode_encode (.ldStVx x), fun s => ⟨rfl, ?_⟩⟩
  have hone : ¬2 ≤ (0x01#8).toNat := by decide
  exact Bool.eq_false_iff.mpr (mt (timerTick_audioOn_iff { s with st := 0x01#8 }).mp hone)

/-! ## The key wait -/

theorem State.toNat_reg_setReg_keyByte (s : State) (x c : Nibble) :
    ((s.setReg x (keyByte c)).reg x).toNat = c.toNat := by
  rw [State.reg_setReg_self, keyByte_toNat]

/-- Settles O40: a key is one register write after the query, and no key is one write of `run`. -/
theorem keyWaitStoresOrHolds : Obligations.KeyWaitStoresOrHolds := by
  unfold Obligations.KeyWaitStoresOrHolds
  refine fun x => ⟨decode_encode (.ldVxK x), fun s => ⟨fun c hc => ?_, fun hnone => ?_⟩⟩
  · exact ⟨_, execLdVxK_some hc x, State.toNat_reg_setReg_keyByte s.askKey x c,
      fun _ hz => State.reg_setReg_of_ne hz s.askKey _, rfl⟩
  · exact execLdVxK_none hnone x

/-- A step during a key wait is the poll (46_timers_keys.md R103). -/
theorem step_waitKey {s : State} {x : Nibble} {owed : Bool} (h : s.run = .waitKey x owed) :
    step s = .next (keyPoll x owed s) :=
  hostMove_waitKey params h

/-- Settles O41: a step is the poll, whose key is one register write before the core runs again; a tick
that is owed leaves the registers and `run`. -/
theorem keyPollEndsTheWait : Obligations.KeyPollEndsTheWait := by
  unfold Obligations.KeyPollEndsTheWait
  refine fun s x owed hrun => ⟨fun p => schedulerStep_waitKey p hrun, fun hnone => ?_, fun c hc => ?_⟩
  · rw [step_waitKey hrun, keyPoll_none hnone]
  · rw [step_waitKey hrun, keyPoll_some hc]
    have hkey := State.toNat_reg_setReg_keyByte s.askKey x c
    have hframe (z : Nibble) (hz : z ≠ x) : (s.askKey.setReg x (keyByte c)).reg z = s.reg z :=
      State.reg_setReg_of_ne hz s.askKey _
    cases owed with
    | false => exact ⟨_, rfl, rfl, hkey, hframe, fun _ => rfl, nofun⟩
    | true => exact ⟨_, rfl, rfl, hkey, hframe, nofun, fun _ => rfl⟩

end Sys2Proof.Machine
end

section
/-! PROOFS. The timer tick (60_exceptions.md R113, R114), and one scheduler step by what fires in it (R115,
R110, R120, R121). -/

namespace Sys2Proof.Machine

/-- Settles O10: in `Halted` the host's move and the scheduler step are the identity. -/
theorem haltedIsAbsorbing : Obligations.HaltedIsAbsorbing := by
  unfold Obligations.HaltedIsAbsorbing
  exact fun s r h => ⟨hostMove_halted params h, fun p => schedulerStep_halted p h⟩

/-- Settles O42: each timer is `countDown`, and the audio level is `timerTick_audioOn_iff`. -/
theorem timerTickCountsDown : Obligations.TimerTickCountsDown := by
  unfold Obligations.TimerTickCountsDown
  exact fun s => ⟨countDown_toNat s.dt, countDown_toNat s.st, timerTick_audioOn_iff s, rfl, rfl⟩

/-! ## What fires in a scheduler step -/

section
variable {p : Params} {s : State}

theorem firesDispatch_eq_true (h : s.accD + 1 > p.decodeInterval) : firesDispatch p s = true :=
  decide_eq_true h

theorem firesDispatch_eq_false (h : s.accD + 1 ≤ p.decodeInterval) : firesDispatch p s = false :=
  decide_eq_false h.not_gt

theorem firesTick_eq_true (h : s.accT + 1 > p.timerInterval) : firesTick p s = true :=
  decide_eq_true h

theorem firesTick_eq_false (h : s.accT + 1 ≤ p.timerInterval) : firesTick p s = false :=
  decide_eq_false h.not_gt

/-- The scheduler step of a running core whose two firings are known. -/
theorem schedulerStep_of_fires (hrun : s.run = .running) {d t : Bool} (hd : firesDispatch p s = d)
    (ht : firesTick p s = t) : schedulerStep p s =
      fireActions p.sameStepOrder d t
        (s.setAcc (if d then 0 else s.accD + 1) (if t then 0 else s.accT + 1)) := by
  subst hd ht
  exact schedulerStep_running p hrun

/-- Where nothing fires, a scheduler step only counts. -/
theorem schedulerStep_of_no_fire (hrun : s.run = .running) (hd : s.accD + 1 ≤ p.decodeInterval)
    (ht : s.accT + 1 ≤ p.timerInterval) : schedulerStep p s = .next (skipIdle 1 s) :=
  schedulerStep_of_fires hrun (firesDispatch_eq_false hd) (firesTick_eq_false ht)

end

theorem fireActions_both_dispatchFirst {s u : State} (hu : dispatchStep s = .next u) :
    fireActions .dispatchFirst true true s = .next (tickAfterDispatch u) :=
  congrArg (onNext · tickAfterDispatch) hu

/-- Settles O43: the two comparisons choose the actions, and where both fire and dispatches come first the
tick is the one after the dispatch. -/
theorem schedulerStepFires : Obligations.SchedulerStepFires := by
  unfold Obligations.SchedulerStepFires
  intro p s hrun
  refine ⟨fun hd ht => ?_, fun hd ht => ?_, fun hd ht => ?_, fun hd ht => ?_⟩
  · exact schedulerStep_of_no_fire hrun hd ht
  · exact schedulerStep_of_fires hrun (firesDispatch_eq_true hd) (firesTick_eq_false ht)
  · exact schedulerStep_of_fires hrun (firesDispatch_eq_false hd) (firesTick_eq_true ht)
  · have hboth := schedulerStep_of_fires hrun (firesDispatch_eq_true hd) (firesTick_eq_true ht)
    refine ⟨fun ho => ?_, fun ho u hu => ?_⟩
    · rw [hboth, ho]
      rfl
    · rw [hboth, ho]
      have htick := fireActions_both_dispatchFirst hu
      refine ⟨fun hr => ?_, fun x b hw => ?_, fun r hh => ?_⟩
      · exact htick.trans (congrArg _ (tickAfterDispatch_running hr))
      · exact htick.trans (congrArg _ (tickAfterDispatch_waitKey hw))
      · exact htick.trans (congrArg _ (tickAfterDispatch_halted hh))

end Sys2Proof.Machine
end

section
/-! PROOFS. Scheduler steps in a row: the event step is a run of them (60_exceptions.md R117), and the
accumulators count them modulo their periods (R116). -/

namespace Sys2Proof.Machine

/-! ## Idle scheduler steps -/

@[simp] theorem skipIdle_zero (s : State) : skipIdle 0 s = s := rfl

theorem skipIdle_skipIdle (m n : Nat) (s : State) : skipIdle m (skipIdle n s) = skipIdle (n + m) s := by
  simp only [skipIdle, State.setAcc, Nat.add_assoc]

/-- One more idle scheduler step, before the one in which something fires. -/
theorem schedulerStep_skipIdle {p : Params} {s : State} (hrun : s.run = .running) {n : Nat}
    (hn : n < idleSteps p s) : schedulerStep p (skipIdle n s) = .next (skipIdle (n + 1) s) := by
  obtain ⟨hd, ht⟩ : n < p.decodeInterval - s.accD ∧ n < p.timerInterval - s.accT := Nat.lt_min.mp hn
  rw [← skipIdle_skipIdle]
  exact schedulerStep_of_no_fire hrun
    (by simp only [skipIdle, State.setAcc_accD]; omega) (by simp only [skipIdle, State.setAcc_accT]; omega)

/-! ## Runs of scheduler steps -/

theorem schedulerSteps_one (p : Params) (s : State) : schedulerSteps p 1 s = schedulerStep p s := by
  obtain ⟨t, ht⟩ := schedulerStep_answers p s
  rw [schedulerSteps_succ_next ht, ht]
  rfl

/-- One run after another. -/
theorem schedulerSteps_add {p : Params} {n : Nat} {s t : State} (h : schedulerSteps p n s = .next t)
    (m : Nat) : schedulerSteps p (n + m) s = schedulerSteps p m t := by
  induction n generalizing s with
  | zero =>
    obtain rfl := Host.Outcome.next.inj h
    rw [Nat.zero_add]
  | succ n ih =>
    obtain ⟨u, hu⟩ := schedulerStep_answers p s
    rw [Nat.add_right_comm, schedulerSteps_succ_next hu]
    exact ih ((schedulerSteps_succ_next hu n).symm.trans h)

/-- A run's last scheduler step. -/
theorem schedulerSteps_succ_last {p : Params} {n : Nat} {s t : State} (h : schedulerSteps p n s = .next t) :
    schedulerSteps p (n + 1) s = schedulerStep p t :=
  (schedulerSteps_add h 1).trans (schedulerSteps_one p t)

theorem schedulerSteps_answers (p : Params) (n : Nat) (s : State) :
    ∃ t, schedulerSteps p n s = .next t := by
  induction n with
  | zero => exact ⟨s, rfl⟩
  | succ n ih =>
    obtain ⟨t, ht⟩ := ih
    exact schedulerSteps_succ_last ht ▸ schedulerStep_answers p t

theorem schedulerSteps_idle {p : Params} {s : State} (hrun : s.run = .running) {n : Nat}
    (hn : n ≤ idleSteps p s) : schedulerSteps p n s = .next (skipIdle n s) := by
  induction n with
  | zero => rfl
  | succ n ih =>
    rw [schedulerSteps_succ_last (ih (Nat.le_of_lt hn))]
    exact schedulerStep_skipIdle hrun hn

/-- Settles O45: the idle scheduler steps only count, and the event step is the scheduler step after them. -/
theorem eventStepRefinesSchedulerSteps : Obligations.EventStepRefinesSchedulerSteps := by
  unfold Obligations.EventStepRefinesSchedulerSteps
  intro p s hrun
  constructor
  · rw [hostMove_running p hrun, schedulerSteps_succ_last (schedulerSteps_idle hrun le_rfl)]
  · exact fun n hn => schedulerSteps_idle hrun hn

/-! ## What the actions leave of the accumulators -/

theorem dispatchStep_acc_eq {s t : State} (h : dispatchStep s = .next t) :
    t.accD = s.accD ∧ t.accT = s.accT := by
  obtain ⟨-, hs⟩ | ⟨w, r, -, -, -, hs⟩ | ⟨w, i, -, -, -, hs⟩ := dispatchStep_cases s
  · obtain rfl := Host.Outcome.next.inj (hs.symm.trans h)
    exact ⟨rfl, rfl⟩
  · obtain rfl := Host.Outcome.next.inj (hs.symm.trans h)
    exact ⟨rfl, rfl⟩
  · exact (effect_of_exec (hs.symm.trans h)).audio_acc_eq.2

theorem tickAfterDispatch_acc_eq (s : State) :
    (tickAfterDispatch s).accD = s.accD ∧ (tickAfterDispatch s).accT = s.accT := by
  cases hr : s.run with
  | running =>
    rw [tickAfterDispatch_running hr]
    exact ⟨rfl, rfl⟩
  | waitKey x owed =>
    rw [tickAfterDispatch_waitKey hr]
    exact ⟨rfl, rfl⟩
  | halted r =>
    rw [tickAfterDispatch_halted hr]
    exact ⟨rfl, rfl⟩

theorem fireActions_acc_eq {o : SameStepOrder} {d a : Bool} {s t : State}
    (h : fireActions o d a s = .next t) : t.accD = s.accD ∧ t.accT = s.accT := by
  obtain hs | hs | hs | hs | hs := fireActions_cases o d a s
  · exact Host.Outcome.next.inj (hs.symm.trans h) ▸ ⟨rfl, rfl⟩
  · exact Host.Outcome.next.inj (hs.symm.trans h) ▸ ⟨rfl, rfl⟩
  · exact dispatchStep_acc_eq (hs.symm.trans h)
  · obtain ⟨u, hu, rfl⟩ := onNext_eq_next (hs.symm.trans h)
    obtain ⟨hd, ht⟩ := dispatchStep_acc_eq hu
    obtain ⟨hd', ht'⟩ := tickAfterDispatch_acc_eq u
    exact ⟨hd'.trans hd, ht'.trans ht⟩
  · exact dispatchStep_acc_eq (s := timerTick s) (hs.symm.trans h)

/-- The accumulators after a scheduler step of a running core (R115). -/
theorem schedulerStep_acc_eq {p : Params} {s t : State} (hrun : s.run = .running)
    (h : schedulerStep p s = .next t) :
    t.accD = (if s.accD + 1 > p.decodeInterval then 0 else s.accD + 1) ∧
      t.accT = (if s.accT + 1 > p.timerInterval then 0 else s.accT + 1) := by
  simpa [advanceAcc, firesDispatch, firesTick] using
    fireActions_acc_eq ((schedulerStep_running p hrun).symm.trans h)

/-- Only a running core's scheduler step leaves it running. -/
theorem running_of_schedulerStep {p : Params} {s t : State} (h : schedulerStep p s = .next t)
    (ht : t.run = .running) : s.run = .running := by
  cases hr : s.run with
  | running => rfl
  | waitKey x owed =>
    obtain rfl := Host.Outcome.next.inj ((schedulerStep_waitKey p hr).symm.trans h)
    exact hr.symm.trans ht
  | halted r =>
    obtain rfl := Host.Outcome.next.inj ((schedulerStep_halted p hr).symm.trans h)
    exact hr.symm.trans ht

/-! ## The periods -/

/-- A counter at `n` modulo its period exceeds the interval exactly where the period divides `n + 1`. -/
theorem counter_exceeds_iff (n k : Nat) : n % (k + 1) + 1 > k ↔ (n + 1) % (k + 1) = 0 := by
  have hle : n % (k + 1) ≤ k := Nat.le_of_lt_succ (Nat.mod_lt n k.succ_pos)
  rw [← Nat.mod_add_mod, ← Nat.dvd_iff_mod_eq_zero, gt_iff_lt]
  exact ⟨fun h => dvd_of_eq (Nat.le_antisymm h (Nat.succ_le_succ hle)), Nat.le_of_dvd (Nat.succ_pos _)⟩

/-- A counter that is reset where it exceeds its interval counts modulo its period. -/
theorem counter_succ (n k : Nat) :
    (if n % (k + 1) + 1 > k then 0 else n % (k + 1) + 1) = (n + 1) % (k + 1) := by
  by_cases h : n % (k + 1) + 1 > k
  · rw [if_pos h, (counter_exceeds_iff n k).mp h]
  · rw [if_neg h, ← Nat.mod_add_mod n (k + 1) 1, Nat.mod_eq_of_lt (Nat.lt_succ_of_le (not_lt.mp h))]

/-- The accumulators of a run from 0 that still runs (R116). -/
theorem schedulerSteps_acc_eq {p : Params} {n : Nat} {s t : State} (hd : s.accD = 0) (ha : s.accT = 0)
    (h : schedulerSteps p n s = .next t) (ht : t.run = .running) :
    t.accD = n % (p.decodeInterval + 1) ∧ t.accT = n % (p.timerInterval + 1) := by
  induction n generalizing t with
  | zero =>
    obtain rfl := Host.Outcome.next.inj h
    exact ⟨hd.trans (Nat.zero_mod _).symm, ha.trans (Nat.zero_mod _).symm⟩
  | succ n ih =>
    obtain ⟨u, hu⟩ := schedulerSteps_answers p n s
    have hstep : schedulerStep p u = .next t := (schedulerSteps_succ_last hu).symm.trans h
    have hrun := running_of_schedulerStep hstep ht
    obtain ⟨hud, hua⟩ := ih hu hrun
    have hacc := schedulerStep_acc_eq hrun hstep
    rwa [hud, hua, counter_succ, counter_succ] at hacc

/-- Settles O44: by induction on the scheduler steps each accumulator counts modulo its period, and it fires
where its next count exceeds its interval. -/
theorem firingsArePeriodic : Obligations.FiringsArePeriodic := by
  unfold Obligations.FiringsArePeriodic
  intro p n s t hd ha h ht
  obtain ⟨htd, hta⟩ := schedulerSteps_acc_eq hd ha h ht
  refine ⟨htd, hta, ?_, ?_⟩
  · rw [firesDispatch, decide_eq_true_iff, htd]
    exact counter_exceeds_iff n p.decodeInterval
  · rw [firesTick, decide_eq_true_iff, hta]
    exact counter_exceeds_iff n p.timerInterval

end Sys2Proof.Machine
end

section
/-! PROOFS. What holds during a key wait (60_exceptions.md R121): a wait starts only in a scheduler step that
fires a dispatch, and owes a tick only where the tick of that step is ordered after it. -/

namespace Sys2Proof.Machine

theorem State.waitInv_iff {p : Params} {s : State} : s.WaitInv p ↔ ∀ x owed, s.run = .waitKey x owed →
    s.accD = 0 ∧ (owed = true → s.accT = 0 ∧ p.sameStepOrder = .dispatchFirst) := by
  cases hr : s.run <;> simp [State.WaitInv, hr]

theorem State.waitInv_of_running {p : Params} {s : State} (h : s.run = .running) : s.WaitInv p :=
  State.waitInv_iff.mpr fun _ _ hw => absurd (h.symm.trans hw) nofun

/-- A dispatcher step of a running core that starts a key wait leaves the owed tick to its scheduler step. -/
theorem not_owed_of_dispatchStep {s t : State} {x : Nibble} {owed : Bool} (hrun : s.run = .running)
    (h : dispatchStep s = .next t) (ht : t.run = .waitKey x owed) : owed = false := by
  obtain ⟨-, hs⟩ | ⟨w, r, -, -, -, hs⟩ | ⟨w, i, -, -, -, hs⟩ := dispatchStep_cases s
  · obtain rfl := Host.Outcome.next.inj (hs.symm.trans h)
    cases ht
  · obtain rfl := Host.Outcome.next.inj (hs.symm.trans h)
    cases ht
  · obtain hkept | ⟨e, hhalted, -⟩ | ⟨y, -, hwait⟩ := (effect_of_exec (hs.symm.trans h)).run_cases
    · exact absurd ((hkept.trans hrun).symm.trans ht) nofun
    · exact absurd (hhalted.symm.trans ht) nofun
    · exact (Run.waitKey.inj (ht.symm.trans hwait)).2

/-- The actions of a running core that start a key wait. -/
theorem fires_of_fireActions_waitKey {o : SameStepOrder} {d a : Bool} {s t : State} {x : Nibble} {owed : Bool}
    (hrun : s.run = .running) (h : fireActions o d a s = .next t) (ht : t.run = .waitKey x owed) :
    d = true ∧ (owed = true → a = true ∧ o = .dispatchFirst) := by
  match d, a, o with
  | false, false, _ =>
    obtain rfl := Host.Outcome.next.inj h
    exact absurd (hrun.symm.trans ht) nofun
  | false, true, _ =>
    obtain rfl := Host.Outcome.next.inj h
    exact absurd (hrun.symm.trans ht) nofun
  | true, false, _ =>
    obtain rfl := not_owed_of_dispatchStep hrun h ht
    exact ⟨rfl, nofun⟩
  | true, true, .dispatchFirst => exact ⟨rfl, fun _ => ⟨rfl, rfl⟩⟩
  | true, true, .tickFirst =>
    obtain rfl := not_owed_of_dispatchStep (s := timerTick s) hrun h ht
    exact ⟨rfl, nofun⟩

theorem State.WaitInv.schedulerStep {p : Params} {s t : State} (h : s.WaitInv p)
    (hs : schedulerStep p s = .next t) : t.WaitInv p := by
  cases hr : s.run with
  | running =>
    have hf := (schedulerStep_running p hr).symm.trans hs
    obtain ⟨haccD, haccT⟩ := fireActions_acc_eq hf
    refine State.waitInv_iff.mpr fun x owed ht => ?_
    obtain ⟨hd, howed⟩ := fires_of_fireActions_waitKey (s := advanceAcc p s) hr hf ht
    refine ⟨haccD.trans (if_pos hd), fun ho => ?_⟩
    obtain ⟨ha, horder⟩ := howed ho
    exact ⟨haccT.trans (if_pos ha), horder⟩
  | waitKey x owed => exact Host.Outcome.next.inj ((schedulerStep_waitKey p hr).symm.trans hs) ▸ h
  | halted r => exact Host.Outcome.next.inj ((schedulerStep_halted p hr).symm.trans hs) ▸ h

/-- A poll without an answer leaves the wait as it is, and one with an answer ends it. -/
theorem State.WaitInv.keyPoll {p : Params} {s : State} (h : s.WaitInv p) (x : Nibble) (owed : Bool) :
    (keyPoll x owed s).WaitInv p := by
  cases hk : s.keyAnswer with
  | none => exact keyPoll_none hk x owed ▸ h
  | some c =>
    rw [keyPoll_some hk]
    cases owed with
    | false => exact State.waitInv_of_running rfl
    | true => exact State.waitInv_of_running rfl

theorem State.WaitInv.hostMove {p : Params} {s t : State} (h : s.WaitInv p) (hm : hostMove p s = .next t) :
    t.WaitInv p := by
  cases hr : s.run with
  | running =>
    exact (State.waitInv_of_running (s := skipIdle (idleSteps p s) s) hr).schedulerStep
      ((hostMove_running p hr).symm.trans hm)
  | waitKey x owed => exact Host.Outcome.next.inj ((hostMove_waitKey p hr).symm.trans hm) ▸ h.keyPoll x owed
  | halted r => exact Host.Outcome.next.inj ((hostMove_halted p hr).symm.trans hm) ▸ h

/-- Settles O54: a step is the host's move under the model's own parameters. -/
theorem stepKeepsWaitInvariant : Obligations.StepKeepsWaitInvariant := by
  unfold Obligations.StepKeepsWaitInvariant
  exact fun _ _ h => h.hostMove

end Sys2Proof.Machine
end

section
/-! PROOFS. Ingestion (70_reset_and_hazards.md R132) and the idle state that ends a program (R142). -/

namespace Sys2Proof.Machine

/-! ## Loading a program -/

theorem loadProgram_of_le {b : List Byte} (h : b.length ≤ Config.maxProgram) (s : State) :
    loadProgram b s = .ok ((s.store Config.programBase b).setPc 0x200#16) :=
  if_neg h.not_gt

theorem loadProgram_of_gt {b : List Byte} (h : b.length > Config.maxProgram) (s : State) :
    loadProgram b s = .error .programTooLarge :=
  if_pos h

/-- Settles O57: loading is one store within the bank and one write of `pc`. -/
theorem loadProgramCopies : Obligations.LoadProgramCopies := by
  unfold Obligations.LoadProgramCopies
  refine fun b s => ⟨fun hlen => ?_, fun hlen => loadProgram_of_gt hlen s⟩
  have hfits : Config.programBase + b.length ≤ Config.memSize := Nat.add_le_add_left hlen 0x200
  exact ⟨_, loadProgram_of_le hlen s, rfl, fun k hk => Memory.read_writeBytes_getElem hk,
    fun a ha => Memory.read_writeBytes_outside s.mem rfl ha, Memory.font_writeBytes _ _ _,
    fun hwf => Memory.wf_writeBytes hwf hfits, rfl⟩

/-! ## The idle state -/

/-- An address of the bank is the operand of the jump to it. -/
theorem addrOperand_setWidth {w : Word} (h : w.toNat ≤ 0xFFF) : addrOperand (w.setWidth 12) = w := by
  apply BitVec.eq_of_toNat_eq
  rw [addrOperand_toNat, BitVec.toNat_setWidth, Nat.mod_eq_of_lt (by omega)]

/-- Idleness does not depend on the accumulators. -/
theorem State.idle_setAcc {s : State} (h : s.idle) (d a : Nat) : (s.setAcc d a).idle := h

/-- Idleness does not depend on the timers or the audio level. -/
theorem State.idle_timerTick {s : State} (h : s.idle) : (timerTick s).idle := h

/-- The jump to its own address changes nothing (42_control.md R70). -/
theorem dispatchStep_of_idle {s : State} (h : s.idle) : dispatchStep s = .next s := by
  obtain ⟨-, hpc, hw⟩ := h
  calc dispatchStep s
    _ = exec (.jp (s.pc.setWidth 12)) (s.setPc (s.pc + 2#16)) := dispatchStep_of_instr hw (decode_encode _)
    _ = .next (s.setPc (addrOperand (s.pc.setWidth 12))) := rfl
    _ = .next s := by rw [addrOperand_setWidth hpc, State.setPc]

/-- Whatever fires in an idle state, at most a tick changes it. -/
theorem fireActions_of_idle {s t : State} (h : s.idle) {o : SameStepOrder} {d a : Bool}
    (hf : fireActions o d a s = .next t) : t = s ∨ t = timerTick s := by
  have ⟨hrun, _, _⟩ := h
  have hjump := dispatchStep_of_idle h
  have hjump' := dispatchStep_of_idle (State.idle_timerTick h)
  obtain hs | hs | hs | hs | hs := fireActions_cases o d a s
  · exact .inl (Host.Outcome.next.inj (hf.symm.trans hs))
  · exact .inr (Host.Outcome.next.inj (hf.symm.trans hs))
  · exact .inl (Host.Outcome.next.inj (hf.symm.trans (hs.trans hjump)))
  · rw [hjump, onNext_next, tickAfterDispatch_running hrun] at hs
    exact .inr (Host.Outcome.next.inj (hf.symm.trans hs))
  · exact .inr (Host.Outcome.next.inj (hf.symm.trans (hs.trans hjump')))

/-- Settles O58: a step from an idle state is what fires in that state with other accumulators. -/
theorem idleStaysIdle : Obligations.IdleStaysIdle := by
  unfold Obligations.IdleStaysIdle
  intro s t h hstep
  have ⟨hrun, _, _⟩ := h
  have hf := (hostMove_eq_fireActions params hrun).symm.trans hstep
  rw [advanceAcc_skipIdle] at hf
  obtain rfl | rfl := fireActions_of_idle (State.idle_setAcc h _ _) hf
  · exact ⟨State.idle_setAcc h _ _, .inl rfl⟩
  · exact ⟨State.idle_timerTick (State.idle_setAcc h _ _), .inr rfl⟩

end Sys2Proof.Machine
end

section
/-! PROOFS. Bounded prefixes (70_reset_and_hazards.md R143): what the two counting functions answer is reached
by a run, and they follow every run to its end. -/

namespace Sys2Proof.Machine

section
variable {p : Params}

/-! ## Single moves as runs -/

theorem Reaches.of_schedulerStep {s t : State} (hw : ∀ x owed, s.run ≠ .waitKey x owed)
    (hs : schedulerStep p s = .next t) : Reaches p s 1 (if dispatches p s then 1 else 0) t := by
  simpa only [Nat.zero_add] using Reaches.start.schedule hw hs

theorem Reaches.of_keyPoll {s : State} {x : Nibble} {owed : Bool} (h : s.run = .waitKey x owed) :
    Reaches p s 0 0 (keyPoll x owed s) :=
  Reaches.start.poll h

theorem ne_waitKey_of_running {s : State} (h : s.run = .running) (x : Nibble) (owed : Bool) :
    s.run ≠ .waitKey x owed := by
  rw [h]
  nofun

/-- No dispatch fires in the idle scheduler steps. -/
theorem dispatches_skipIdle {s : State} {n : Nat} (hn : n < idleSteps p s) :
    dispatches p (skipIdle n s) = false := by
  have hd : n < p.decodeInterval - s.accD := (Nat.lt_min.mp hn).1
  by_cases hrun : s.run = .running
  · rw [dispatches_running p (s := skipIdle n s) hrun]
    exact firesDispatch_eq_false (by simp only [skipIdle, State.setAcc_accD]; omega)
  · exact dispatches_of_not_running p (s := skipIdle n s) hrun

theorem reaches_skipIdle {s : State} (hrun : s.run = .running) {n : Nat} (hn : n ≤ idleSteps p s) :
    Reaches p s n 0 (skipIdle n s) := by
  induction n with
  | zero => exact .start
  | succ n ih =>
    have hidle := ih (Nat.le_of_lt hn)
    have hlast := hidle.schedule (ne_waitKey_of_running hrun) (schedulerStep_skipIdle hrun hn)
    simpa [dispatches_skipIdle hn] using hlast

/-- A move of the host is a run, and dispatches where its last scheduler step does. -/
theorem Reaches.of_hostMove {s t : State} (h : hostMove p s = .next t) :
    ∃ n, Reaches p s n (if dispatches p (skipIdle (idleSteps p s) s) then 1 else 0) t := by
  cases hr : s.run with
  | running =>
    have hlast := Reaches.of_schedulerStep (s := skipIdle (idleSteps p s) s)
      (ne_waitKey_of_running hr) ((hostMove_running p hr).symm.trans h)
    exact ⟨_, Nat.zero_add _ ▸ (reaches_skipIdle hr le_rfl).trans hlast⟩
  | waitKey x owed =>
    obtain rfl := Host.Outcome.next.inj ((hostMove_waitKey p hr).symm.trans h)
    rw [dispatches_of_not_running p (by simp [hr])]
    exact ⟨0, .of_keyPoll hr⟩
  | halted r =>
    obtain rfl := Host.Outcome.next.inj ((hostMove_halted p hr).symm.trans h)
    rw [dispatches_of_not_running p (by simp [hr])]
    exact ⟨0, .start⟩

/-! ## What the functions answer is reached -/

theorem reaches_of_afterSchedulerSteps {moves n : Nat} {s t : State}
    (h : afterSchedulerSteps p moves n s = some t) : ∃ d, Reaches p s n d t := by
  induction moves generalizing n s with
  | zero =>
    cases n with
    | zero => exact ⟨0, Option.some.inj h ▸ .start⟩
    | succ n => cases h
  | succ moves ih =>
    cases n with
    | zero => exact ⟨0, Option.some.inj h ▸ .start⟩
    | succ n =>
      by_cases hw : ∃ x owed, s.run = .waitKey x owed
      · obtain ⟨x, owed, hr⟩ := hw
        obtain ⟨d, hrest⟩ := ih ((afterSchedulerSteps_poll p hr moves n).symm.trans h)
        exact ⟨_, Nat.zero_add _ ▸ (Reaches.of_keyPoll hr).trans hrest⟩
      · have hw' : ∀ x owed, s.run ≠ .waitKey x owed := fun x owed hr => hw ⟨x, owed, hr⟩
        obtain ⟨u, hu⟩ := schedulerStep_answers p s
        obtain ⟨d, hrest⟩ := ih ((afterSchedulerSteps_schedule p hw' hu moves n).symm.trans h)
        exact ⟨_, Nat.add_comm 1 n ▸ (Reaches.of_schedulerStep hw' hu).trans hrest⟩

theorem reaches_of_afterDispatches {moves d : Nat} {s t : State}
    (h : afterDispatches p moves d s = some t) : ∃ n, Reaches p s n d t := by
  induction moves generalizing d s with
  | zero =>
    cases d with
    | zero => exact ⟨0, Option.some.inj h ▸ .start⟩
    | succ d => cases h
  | succ moves ih =>
    cases d with
    | zero => exact ⟨0, Option.some.inj h ▸ .start⟩
    | succ d =>
      obtain ⟨u, hu⟩ := hostMove_answers p s
      obtain ⟨n, hfirst⟩ := Reaches.of_hostMove hu
      obtain ⟨n', hrest⟩ := ih ((afterDispatches_move p hu moves d).symm.trans h)
      have hrun := hfirst.trans hrest
      refine ⟨n + n', ?_⟩
      cases hd : dispatches p (skipIdle (idleSteps p s) s) with
      | false => simpa [hd] using hrun
      | true => simpa [hd, Nat.add_comm 1 d] using hrun

/-! ## The function of scheduler steps follows every run -/

/-- After a run's moves the function stands where the run does, with the steps that are left to take. -/
theorem Reaches.afterSchedulerSteps_eq {s t : State} {n d : Nat} (h : Reaches p s n d t) :
    ∃ moves, ∀ m k,
      afterSchedulerSteps p (moves + m) (n + (k + 1)) s = afterSchedulerSteps p m (k + 1) t := by
  induction h with
  | start => exact ⟨0, fun m k => by rw [Nat.zero_add, Nat.zero_add]⟩
  | schedule _ hw hs ih =>
    obtain ⟨moves, ih⟩ := ih
    refine ⟨moves + 1, fun m k => ?_⟩
    rw [Nat.add_right_comm moves, Nat.add_right_comm _ 1]
    exact (ih (m + 1) (k + 1)).trans (afterSchedulerSteps_schedule p hw hs m (k + 1))
  | poll _ hr ih =>
    obtain ⟨moves, ih⟩ := ih
    refine ⟨moves + 1, fun m k => ?_⟩
    rw [Nat.add_right_comm moves]
    exact (ih (m + 1) k).trans (afterSchedulerSteps_poll p hr m k)

/-- It answers at the run's last scheduler step. -/
theorem Reaches.afterSchedulerSteps_answers {s t : State} {n d : Nat} (h : Reaches p s n d t) :
    ∃ moves u, afterSchedulerSteps p moves n s = some u := by
  induction h with
  | start => exact ⟨0, s, rfl⟩
  | @schedule _ _ _ u hrun hw hs _ =>
    obtain ⟨moves, heq⟩ := hrun.afterSchedulerSteps_eq
    exact ⟨moves + 1, u, (heq 1 0).trans (afterSchedulerSteps_schedule p hw hs 0 0)⟩
  | poll _ _ ih => exact ih

/-! ## The function of dispatcher steps follows every run -/

/-- A step that dispatches is an event step without idle steps. -/
theorem idleSteps_of_dispatches {s : State} (h : dispatches p s = true) :
    s.run = .running ∧ idleSteps p s = 0 := by
  have hrun : s.run = .running := by
    by_contra hr
    exact absurd (h.symm.trans (dispatches_of_not_running p hr)) nofun
  rw [dispatches_running p hrun, firesDispatch, decide_eq_true_iff] at h
  exact ⟨hrun, by rw [idleSteps]; omega⟩

/-- Where the next scheduler step fires something, it is the host's move. -/
theorem hostMove_of_idleSteps_eq_zero {s : State} (hrun : s.run = .running) (h : idleSteps p s = 0) :
    hostMove p s = schedulerStep p s := by
  rw [hostMove_running p hrun, h, skipIdle_zero]

/-- An idle scheduler step leaves the next event step the same, one idle step shorter. -/
theorem skipIdle_idleSteps_succ {s : State} (h : 0 < idleSteps p s) :
    skipIdle (idleSteps p (skipIdle 1 s)) (skipIdle 1 s) = skipIdle (idleSteps p s) s := by
  have hidle : 1 + idleSteps p (skipIdle 1 s) = idleSteps p s := by
    simp only [idleSteps, skipIdle, State.setAcc_accD, State.setAcc_accT] at h ⊢
    omega
  rw [skipIdle_skipIdle, hidle]

theorem afterDispatches_skipIdle_one {s : State} (hrun : s.run = .running) (h : 0 < idleSteps p s)
    (m k : Nat) :
    afterDispatches p (m + 1) (k + 1) (skipIdle 1 s) = afterDispatches p (m + 1) (k + 1) s := by
  obtain ⟨t, ht⟩ := hostMove_answers p s
  have ht' : hostMove p (skipIdle 1 s) = .next t := by
    rw [hostMove_running p (s := skipIdle 1 s) hrun, skipIdle_idleSteps_succ h, ← hostMove_running p hrun, ht]
  rw [afterDispatches_move p ht, afterDispatches_move p ht', skipIdle_idleSteps_succ h]

/-- A scheduler step in which something fires is a move; one in which nothing does, or of a halted core,
takes none. -/
theorem afterDispatches_of_schedulerStep {s t : State} (hw : ∀ x owed, s.run ≠ .waitKey x owed)
    (hs : schedulerStep p s = .next t) : ∃ j, ∀ m k,
      afterDispatches p (j + (m + 1)) ((if dispatches p s then 1 else 0) + (k + 1)) s =
        afterDispatches p (m + 1) (k + 1) t := by
  cases hr : s.run with
  | waitKey x owed => exact absurd hr (hw x owed)
  | halted r =>
    obtain rfl := Host.Outcome.next.inj ((schedulerStep_halted p hr).symm.trans hs)
    refine ⟨0, fun m k => ?_⟩
    simp [dispatches_of_not_running p (s := s) (by simp [hr])]
  | running =>
    obtain hzero | hpos := Nat.eq_zero_or_pos (idleSteps p s)
    · refine ⟨1, fun m k => ?_⟩
      rw [Nat.add_comm 1, ← Nat.add_assoc,
        afterDispatches_move p ((hostMove_of_idleSteps_eq_zero hr hzero).trans hs), hzero, skipIdle_zero]
      cases dispatches p s with
      | false => simp
      | true => simp [Nat.add_comm 1 k]
    · obtain rfl := Host.Outcome.next.inj ((schedulerStep_skipIdle hr hpos).symm.trans hs)
      refine ⟨0, fun m k => ?_⟩
      have hd : dispatches p s = false := dispatches_skipIdle hpos
      simpa [hd] using (afterDispatches_skipIdle_one hr hpos m k).symm

/-- A poll is a move without a dispatch. -/
theorem afterDispatches_poll {s : State} {x : Nibble} {owed : Bool} (h : s.run = .waitKey x owed)
    (m k : Nat) :
    afterDispatches p (m + 1) (k + 1) s = afterDispatches p m (k + 1) (keyPoll x owed s) := by
  rw [afterDispatches_move p (hostMove_waitKey p h), dispatches_of_not_running p (by simp [h])]
  rfl

/-- After a run's moves the function is as far as from the run's end, with the dispatches that are left; the
run may end among the idle steps of a move, so one move is still to come. -/
theorem Reaches.afterDispatches_eq {s t : State} {n d : Nat} (h : Reaches p s n d t) :
    ∃ moves, ∀ m k,
      afterDispatches p (moves + (m + 1)) (d + (k + 1)) s = afterDispatches p (m + 1) (k + 1) t := by
  induction h with
  | start => exact ⟨0, fun m k => by rw [Nat.zero_add, Nat.zero_add]⟩
  | schedule _ hw hs ih =>
    obtain ⟨moves, ih⟩ := ih
    obtain ⟨j, hj⟩ := afterDispatches_of_schedulerStep hw hs
    refine ⟨moves + j, fun m k => ?_⟩
    rw [Nat.add_assoc, Nat.add_assoc]
    exact (ih (j + m) (_ + k)).trans (hj m k)
  | poll _ hr ih =>
    obtain ⟨moves, ih⟩ := ih
    refine ⟨moves + 1, fun m k => ?_⟩
    rw [Nat.add_right_comm moves]
    exact (ih (m + 1) k).trans (afterDispatches_poll hr (m + 1) k)

/-- It answers at the scheduler step of the run's last dispatcher step. -/
theorem Reaches.afterDispatches_answers {s t : State} {n d : Nat} (h : Reaches p s n d t) :
    ∃ moves u, afterDispatches p moves d s = some u := by
  induction h with
  | start => exact ⟨0, s, rfl⟩
  | @schedule _ d t u hreach hw hs ih =>
    cases hd : dispatches p t with
    | false => exact ih
    | true =>
      obtain ⟨hrun, hidle⟩ := idleSteps_of_dispatches hd
      obtain ⟨moves, heq⟩ := hreach.afterDispatches_eq
      have hmove := afterDispatches_move p ((hostMove_of_idleSteps_eq_zero hrun hidle).trans hs) 0 0
      rw [hidle, skipIdle_zero, hd] at hmove
      exact ⟨moves + 1, u, (heq 0 0).trans hmove⟩
  | poll _ _ ih => exact ih

end

/-- Settles O59: each function's answer is reached move by move, and each follows a run to the last of the
steps it counts. -/
theorem boundedPrefixesAreRuns : Obligations.BoundedPrefixesAreRuns := by
  unfold Obligations.BoundedPrefixesAreRuns
  intro p s
  exact ⟨fun _ _ _ => reaches_of_afterSchedulerSteps, fun _ _ _ => reaches_of_afterDispatches,
    fun _ _ _ h => ⟨h.afterSchedulerSteps_answers, h.afterDispatches_answers⟩⟩

end Sys2Proof.Machine
end
